-- ==== Sys2Proof/Word.lean ====
section
/-! DEFINITION. The word types of the Mervaro 2416: port bytes, two-byte values and the 12-bit characters of the
station link. -/

namespace Sys2Proof

/-- One byte on DB7..DB0 (section 1.4: bit 7 is the most significant). -/
abbrev Byte := BitVec 8

/-- A two-byte quantity of a port message, sent low byte first (section 1.4). -/
abbrev Half := BitVec 16

/-- One character on the station link (R114), bit `i` being the `i`-th bit sent: bit 0 the start bit, bits 1 to 8 the
data (least significant first), bit 9 the type bit, bit 10 the parity bit, bit 11 the stop bit. -/
abbrev LinkChar := BitVec 12

end Sys2Proof
end

