-- ==== Sys2Proof/Syntax.lean ====
section
/-! DEFINITION. The commands of the block: one constructor of `Instr` for each row of spec/opcode_table.json, with its
operands as the berth computer, the station link or the berth lines give them. -/

namespace Sys2Proof

/-- A level on a pin. -/
inductive Level where
  | low
  | high
deriving DecidableEq, Repr

/-- The body of CONFIGURE BERTH (R146): six timeouts, the station map (bit `n` for station `n`) and the line bytes of D0
to D7. -/
structure BerthBody where
  pay : Half
  fast : Half
  haul : Half
  clear : Half
  stall : Half
  stage : Half
  map : BitVec 24
  lines : Vector Byte 8
deriving DecidableEq, Repr

/-- The body of ASSIGN (section 11.6), in the order of the request table. -/
structure AssignBody where
  station : Byte
  callTag : Byte
  group : Byte
  role : Byte
  lRun : Half
  lMin : Half
  lMax : Half
  p : Half
  b : Half
  q : Half
  k : Half
  t : Byte
  r : Byte
  s : Byte
deriving DecidableEq, Repr

/-- The moment, `elapsed` units of 0.1 s on, at which the remaining time of the record in slot `handle` may run out
(R28; log 2). -/
structure DeadlineExpiry where
  handle : Fin 32
  elapsed : Nat
deriving DecidableEq, Repr

/-- The moment, `elapsed` units of 0.1 s on, at which the stage deadline of a group may run out (R103; log 2). -/
structure StageExpiry where
  group : Fin 8
  elapsed : Nat
deriving DecidableEq, Repr

/-- The commands the 2416 takes from outside. A request row stands for the berth computer's writing of that whole request
message at location 0 (log 3). Bytes of a request are kept as bytes: what the part refuses is refused by its rules. -/
inductive Instr where
  /-- Request 1, R146. -/
  | configureBerth (body : BerthBody)
  /-- Request 2, R8 to R11. -/
  | assign (body : AssignBody)
  /-- Request 3, R31 to R33; a target is a kind byte and a value byte (R80). -/
  | arm (kind value : Byte)
  /-- Request 4, R34. -/
  | disarm (kind value : Byte)
  /-- Request 5, R83. -/
  | set (kind value : Byte) (p b : Half)
  /-- Request 6, R84. -/
  | apply (kind value : Byte)
  /-- Request 7, R40. -/
  | holdLine (kind value : Byte)
  /-- Request 8, R41. -/
  | resume (kind value : Byte)
  /-- Request 9, R98, R100, R105. -/
  | release (kind value : Byte)
  /-- Request 10, R46; the operand is a reference byte. -/
  | clearFault (ref : Byte)
  /-- Request 11, R15, R16. -/
  | retire (kind value : Byte)
  /-- Request 12, R18. -/
  | abandon (ref : Byte)
  /-- Request 13, R14. -/
  | readRecord (ref : Byte)
  /-- Request 14, R12. -/
  | find (kind value : Byte)
  /-- Request 15, R161. -/
  | nextNotice
  /-- Request 16, R144. -/
  | ackEmergency
  /-- Request 17, R129. -/
  | stationQuery (station kind : Byte)
  /-- Request 18, R132. -/
  | zero (station : Byte)
  /-- Request 19, R150. -/
  | proveStart (ref push : Byte) (settle : Half) (increment direction dwell : Byte)
  /-- Request 20, R153. -/
  | proveRelease (ref : Byte)
  /-- Request 21, R156. -/
  | proveStop (ref : Byte)
  /-- Request 22, R140. -/
  | readBerth
  /-- Request 23, R139. -/
  | setOutputs (latches : Byte)
  /-- A completed request whose header the port refuses (R171); the body length written is the length of `body`. -/
  | badRequestHeader (code : Byte) (body : List Byte)
  /-- One write to location 0 (R170). -/
  | requestByteWrite (value : Byte)
  /-- The executing request ends (R171, R172, R176). -/
  | requestEnd
  /-- One read of location 0 (R172). -/
  | replyByteRead
  /-- One read of location 1 (R169). -/
  | statusRead
  /-- A write to location 1 with bit 0 set (R174). -/
  | portAbort (value : Byte)
  /-- A write to location 3 (R160, R168). -/
  | enablesWrite (value : Byte)
  /-- A write of 1 to location 2 (R175). -/
  | holdAll
  /-- A write of 2 to location 2 (R175). -/
  | resumeAll
  /-- A write of 3 to location 2 (R175). -/
  | releaseAll
  /-- A write of 0 to location 2 (R175). -/
  | urgentWithdrawal
  /-- A write of 4 to 255 to location 2 (R175). -/
  | urgentCodeInvalid (value : Byte)
  /-- The reset that follows loss of the standby supply (R20). -/
  | powerOnReset
  /-- A reset at RST# with the standby supply present (R21). -/
  | warmReset
  /-- The next slot of the scan begins (R118). -/
  | slotStart
  /-- The slot in progress ends (R120), with the characters received in it after the controller's own; `inTime` says that
  the first of them began within 1 ms of the end of the controller's last stop bit. -/
  | slotEnd (inTime : Bool) (chars : List LinkChar)
  /-- The remaining time of a record runs out (R28). -/
  | deadlineExpiry (expiry : DeadlineExpiry)
  /-- The stage deadline of a group runs out (R103). -/
  | stageDeadlineExpiry (expiry : StageExpiry)
  /-- The level on a line's pin has been stable for 50 ms (R137). -/
  | lineQualified (line : Fin 8)
  /-- The level on a line's pin changes (R137). -/
  | berthLinePinChange (line : Fin 8) (level : Level)
deriving DecidableEq, Repr

end Sys2Proof
end

