-- ==== Sys2Proof/Config.lean ====
section
/-! DEFINITION. The free values: what the manual leaves open while the part goes on. Each is an opaque constant, so no
proof can see its value and a claim holds whatever it is. -/

namespace Sys2Proof

/-- DESIGN CHOICE (log 8), safe. R112: at the end of a berth hold the start of a WAITING group's next stage and the
deferred trips of its records may be taken in either order. `Config.stageStartsFirst n g` is that order for group `g` at
the `n`-th end of hold: true when the stage starts before the trips are taken. -/
opaque Config.stageStartsFirst : Nat → Fin 8 → Bool

/-- DESIGN CHOICE (log 9), safe. R129 refuses a STATION QUERY for a station above 23 with RANGE and for a kind above 4
with BAD REQUEST, and does not say which of the two is given when both hold. `Config.stationRefusedFirst station kind`
is true when RANGE is given. -/
opaque Config.stationRefusedFirst : Byte → Byte → Bool

end Sys2Proof
end

