-- ==== Sys2Proof/Machine/State.lean ====
section
/-! DEFINITION. The state of the 2416 as plain data, its reset value, and the reasons a step could stop. -/

namespace Sys2Proof.Machine

/-- The reasons the part stops with a fault. There are none: every command of the table has an effect the spec gives,
and no access of the part is called undefined, so no meaning raises a fault (safe). -/
inductive Fault where
deriving DecidableEq, Repr

/-- The reasons a step refuses. -/
inductive Refusal where
  /-- Raised only by an arm of `exec` whose command has no meaning yet; no arm is left in that condition (safe). -/
  | notModelled (mnemonic : String)
deriving DecidableEq, Repr

/-! ### Vocabulary of a line record -/

/-- The place of a line in the mooring (R2). -/
inductive Role where
  | breast | head | stern | spring
deriving DecidableEq, Repr

/-- The eleven states other than FREE (section 3.1); FREE is a slot without a record. -/
inductive LineState where
  | prepared | armed | paying | makingFast | hauling | tending | held | releasing | rewinding | stowed | fault
deriving DecidableEq, Repr

/-- The causes a record in FAULT holds (R26). -/
inductive FaultCause where
  | payTimeout | fastTimeout | haulTimeout | clearTimeout | rewindStall | haulShort | slack | stationLost | stationFault
  | reset
deriving DecidableEq, Repr

/-- The direction of a vote, a lean or a correction step (R59, R65). -/
inductive Dir where
  | pay | haul
deriving DecidableEq, Repr

/-- A record's deadline, with its remaining time in 0.1 s units (R27). -/
inductive Deadline where
  | absent
  | running (remaining : Nat)
  | frozen (remaining : Nat)
deriving DecidableEq, Repr

/-- The pending part: P′ and B′ as SET wrote them (R79). -/
structure PendingPart where
  p : Nat
  b : Nat
deriving DecidableEq, Repr

/-- The step in flight: a direction and an amount in cm (R72). -/
structure StepInFlight where
  dir : Dir
  amount : Nat
deriving DecidableEq, Repr

/-- The phase of a proving part; SETTLE carries the two running tallies (R149). -/
inductive ProvePhase where
  | push
  | dwell
  | settle (steps : Nat) (firstInBand : Option Nat)
deriving DecidableEq, Repr

/-- The proving part (R149). -/
structure ProvingPart where
  pushCount : Nat
  settleCount : Nat
  increment : Nat
  /-- true for RAISE, false for LOWER. -/
  raises : Bool
  dwells : Bool
  phase : ProvePhase
  counter : Nat
  offset : Int
  lastSteps : Nat
  lastInBand : Option Nat
deriving DecidableEq, Repr

/-- The pending notice set: which of the nine kinds are pending, FAULT ENTERED with the cause it carries (R158). -/
structure NoticeSet where
  overload : Bool
  payLimit : Bool
  emergencyReleased : Bool
  faultEntered : Option FaultCause
  tendingReached : Bool
  stowed : Bool
  haulLimit : Bool
  resetHold : Bool
  provingResult : Bool
deriving DecidableEq, Repr

/-- The empty notice set (R11). -/
def NoticeSet.empty : NoticeSet := ⟨false, false, false, none, false, false, false, false, false⟩

/-- A line record (R2 to R5). Its handle is its slot's number and its generation its slot's generation (R1), each held
once, in the table. -/
structure Record where
  station : Fin 24
  callTag : Byte
  group : Fin 8
  role : Role
  state : LineState
  lRun : Nat
  lMin : Nat
  lMax : Nat
  /-- L, the last length reported by the station. -/
  len : Nat
  p : Nat
  b : Nat
  q : Nat
  k : Nat
  /-- M, the last measured tension. -/
  m : Nat
  /-- C, the drift count. -/
  c : Nat
  /-- D, the lean. -/
  lean : Option Dir
  t : Nat
  r : Nat
  /-- S, the amount of one correction step. -/
  stepSize : Nat
  tripDeferred : Bool
  slackRun : Nat
  overload : Bool
  payLimit : Bool
  haulLimit : Bool
  stepsPaid : Nat
  stepsHauled : Nat
  deadline : Deadline
  pending : Option PendingPart
  step : Option StepInFlight
  proving : Option ProvingPart
  faultCause : Option FaultCause
  notices : NoticeSet
deriving DecidableEq, Repr

/-- A slot of the line table: FREE when it holds no record; the generation belongs to the slot (R1). -/
structure Slot where
  generation : Fin 8
  record : Option Record
deriving DecidableEq, Repr

/-- A reference to a record, handle and generation (R6). -/
structure Ref where
  handle : Fin 32
  generation : Fin 8
deriving DecidableEq, Repr

/-! ### Berth configuration and berth lines -/

/-- The six berth timeouts in 0.1 s units (R22). -/
structure Timeouts where
  pay : Nat
  fast : Nat
  haul : Nat
  clear : Nat
  stall : Nat
  stage : Nat
deriving DecidableEq, Repr

/-- The function of a discrete line (R136). -/
inductive LineFunction where
  | generalIn | generalOut | contact | hold | ramp | emergency
deriving DecidableEq, Repr

/-- The function and polarity of one discrete line (R136). -/
structure LineConfig where
  function : LineFunction
  activeLow : Bool
deriving DecidableEq, Repr

/-- The berth configuration, in standby-retained memory (R22). The station map has bit `n` set when station `n` is to be
polled. -/
structure BerthConfig where
  timeouts : Timeouts
  map : BitVec 24
  lines : Vector LineConfig 8
deriving DecidableEq, Repr

/-- What the Berth Line Inputs hold of one line (R136, R137). -/
structure BerthLine where
  latch : Bool
  /-- The qualified level, `none` for NONE. -/
  qualified : Option Level
  /-- The level that the berth puts on the pin. -/
  pin : Level
  /-- Whether the 50 ms qualification time of the line is being counted. -/
  qualifying : Bool
deriving DecidableEq, Repr

/-! ### Station table and station link -/

/-- Whether a station is answering (R121). -/
inductive Presence where
  | absent | present | lost
deriving DecidableEq, Repr

/-- The commands of the station link with their arguments (section 7.4). -/
inductive Command where
  | stopBrake
  | payTo (length : Nat)
  | haulUntil (tension : Nat)
  | stepPay (amount : Nat)
  | stepHaul (amount : Nat)
  | free
  | rewind
  | zero
deriving DecidableEq, Repr

/-- The content of a reply frame: flags, tension M and length L (section 7.4). -/
structure Frame where
  flags : Byte
  tension : Nat
  length : Nat
deriving DecidableEq, Repr

/-- The four diagnostic kinds, codes 1 to 4 (section 7.4). -/
inductive DiagKind where
  | runningHours | brakeWear | motorTemperature | armCycles
deriving DecidableEq, Repr

/-- The state of a diagnostic slot (R121). -/
inductive DiagState where
  | empty | waiting | filled
deriving DecidableEq, Repr

/-- An entry of the station table (R121). -/
structure StationEntry where
  presence : Presence
  missCount : Nat
  command : Option Command
  toggle : Bool
  lastReply : Option Frame
  diagState : DiagState
  diagKind : Option DiagKind
  diagValue : Half
  pendingKind : Option DiagKind
  zeroing : Bool
deriving DecidableEq, Repr

/-- What the slot in progress carries (R118); `silent` is the slot of a station outside the map (R115). -/
inductive SlotKind where
  | silent
  | poll
  | command (command : Command) (toggle : Bool)
  | query (kind : DiagKind)
deriving DecidableEq, Repr

/-- The slot in progress: its kind, the characters the controller sent in it, and whether the command slot of its station
has been given another command since it began (R126). -/
structure LinkSlot where
  kind : SlotKind
  sent : List LinkChar
  replaced : Bool
deriving DecidableEq, Repr

/-- The scan (R116): the station whose slot is in progress, or whose slot begins next. -/
structure Scan where
  station : Fin 24
  slot : Option LinkSlot
deriving DecidableEq, Repr

/-! ### Group table -/

/-- The stages of a staged release (R96). -/
inductive Stage where
  | breast | ends | spring
deriving DecidableEq, Repr

/-- An entry of the group table (R96). `idle` is stage NONE. Only a RUNNING stage has a member list and a stage deadline,
whose remaining time is in 0.1 s units. -/
inductive GroupEntry where
  | idle
  | running (stage : Stage) (members : List Ref) (remaining : Nat)
  | waiting (stage : Stage)
deriving DecidableEq, Repr

/-! ### Berth computer port -/

/-- The result codes of section 11.6. -/
inductive Result where
  | done | badRequest | badRef | badState | tableFull | stationTaken | stationAbsent | range | interlock | notConfigured
  | busy
deriving DecidableEq, Repr

/-- What a block answers to a request: a result and a reply body (R171). -/
structure Answer where
  result : Result
  body : List Byte
deriving DecidableEq, Repr

/-- The executing request: its code as written, the answer its block gave, and whether an abort has separated it from its
reply (R171, R174). -/
structure Executing where
  code : Byte
  answer : Answer
  aborted : Bool
deriving DecidableEq, Repr

/-- The reply mailbox (R172): EMPTY, READY with its bytes and the index of the next unread one, or READ OUT. -/
inductive ReplyBox where
  | empty
  | ready (bytes : List Byte) (next : Nat)
  | readOut
deriving DecidableEq, Repr

/-- The urgent codes 1 to 3 (R175). -/
inductive UrgentCode where
  | holdAll | resumeAll | releaseAll
deriving DecidableEq, Repr

/-- The berth computer port (R168 to R176). -/
structure Port where
  /-- The bytes of the request being written. -/
  mailbox : List Byte
  executing : Option Executing
  reply : ReplyBox
  overrun : Bool
  /-- The urgent code posted, if one is. -/
  posted : Option UrgentCode
  replyReadyEnable : Bool
  /-- The byte that the last read of location 0 or 1 returned on DB7..DB0. -/
  dataOut : Byte
deriving DecidableEq, Repr

/-! ### The whole machine -/

/-- The state of the 2416, and the queue of the commands waiting to be taken. -/
structure State where
  /-- The line table (R1). -/
  table : Vector Slot 32
  /-- The berth configuration (R22). -/
  config : BerthConfig
  /-- The configured flag (R147). -/
  configured : Bool
  /-- The station table (R121). -/
  stations : Vector StationEntry 24
  /-- The scan of the station link (R116). -/
  scan : Scan
  /-- The group table (R96). -/
  groups : Vector GroupEntry 8
  /-- The discrete lines D0 to D7 (R136). -/
  lines : Vector BerthLine 8
  /-- The software hold (R142). -/
  softwareHold : Bool
  /-- The emergency latch (R143). -/
  emergencyLatch : Bool
  /-- The notices enable (R160). -/
  noticesEnable : Bool
  /-- The berth computer port. -/
  port : Port
  /-- The model's own: how many ends of berth hold have been taken, the argument of the free value of R112 (log 8). -/
  holdEnds : Nat
  /-- The model's own: the commands waiting, first in, first out. -/
  pending : List Instr
deriving DecidableEq, Repr

/-! ### Reset values -/

/-- The berth configuration after a power-on reset (R22). -/
def BerthConfig.default : BerthConfig where
  timeouts := { pay := 900, fast := 1200, haul := 600, clear := 300, stall := 100, stage := 450 }
  map := 0
  lines := Vector.replicate 8 { function := .generalIn, activeLow := false }

/-- A station table entry after a power-on reset (R135). -/
def StationEntry.reset : StationEntry where
  presence := .absent
  missCount := 0
  command := none
  toggle := false
  lastReply := none
  diagState := .empty
  diagKind := none
  diagValue := 0
  pendingKind := none
  zeroing := false

/-- A discrete line after a power-on reset (R136, R137); the level on its pin is the berth's, LOW here (log 6). -/
def BerthLine.reset : BerthLine where
  latch := false
  qualified := none
  pin := .low
  qualifying := true

/-- The port after a power-on reset (R168, R169, R170, R172, R175); the data pins are 0 here (log 7). -/
def Port.reset : Port where
  mailbox := []
  executing := none
  reply := .empty
  overrun := false
  posted := none
  replyReadyEnable := false
  dataOut := 0

/-- The machine after a power-on reset (R20, R22, R96, R135, R136, R141, R143, R160). -/
def State.reset : State where
  table := Vector.replicate 32 { generation := 0, record := none }
  config := BerthConfig.default
  configured := false
  stations := Vector.replicate 24 StationEntry.reset
  scan := { station := 0, slot := none }
  groups := Vector.replicate 8 .idle
  lines := Vector.replicate 8 BerthLine.reset
  softwareHold := false
  emergencyLatch := false
  noticesEnable := false
  port := Port.reset
  holdEnds := 0
  pending := []

end Sys2Proof.Machine
end

