-- ==== Sys2Proof/Machine/Ops.lean ====
section
/-! DEFINITION. The named operations over the line table, the station table, the group table and the notice sets, and
the command slot arbitration of R94. Every block works through these. -/

namespace Sys2Proof.Machine

/-- Every entry of a table rewritten. -/
def mapEntries {α : Type} {n : Nat} (f : α → α) (v : Vector α n) : Vector α n := Vector.ofFn fun i => f v[i]

/-! ### Line table -/

/-- The record in slot `h`, `none` while the slot is FREE (R1). -/
def State.record? (s : State) (h : Fin 32) : Option Record := s.table[h].record

/-- The generation of slot `h` (R1). -/
def State.generation (s : State) (h : Fin 32) : Fin 8 := s.table[h].generation

/-- The reference of whatever record slot `h` holds (R6). -/
def State.refOf (s : State) (h : Fin 32) : Ref := { handle := h, generation := s.generation h }

/-- Writes the record of slot `h`, keeping the slot's generation. -/
def State.putRecord (s : State) (h : Fin 32) (r : Record) : State :=
  { s with table := s.table.set h { s.table[h] with record := some r } }

/-- The slot becomes FREE: the record is discarded whole and the generation increases by 1, 7 being followed by 0
(R7, R17). -/
def State.freeSlot (s : State) (h : Fin 32) : State :=
  { s with table := s.table.set h { generation := s.generation h + 1, record := none } }

/-- Acts with the record of slot `h`; a FREE slot leaves the state as it stands. -/
def State.withRecord (s : State) (h : Fin 32) (f : Record → State) : State :=
  match s.record? h with
  | some r => f r
  | none => s

/-- Rewrites the record of slot `h`, if it holds one. -/
def State.modifyRecord (s : State) (h : Fin 32) (f : Record → Record) : State :=
  s.withRecord h fun r => s.putRecord h (f r)

/-- Takes an event at every handle, in ascending handle order (R82). -/
def State.forRecords (s : State) (f : Fin 32 → State → State) : State :=
  (List.finRange 32).foldl (fun s h => f h s) s

/-- The engaged states (R23). -/
def LineState.engaged : LineState → Bool
  | .prepared | .stowed => false
  | _ => true

/-- The states in which a station drives its drum continuously, which berth hold pauses (R47). -/
def LineState.moving : LineState → Bool
  | .paying | .hauling | .rewinding => true
  | _ => false

/-- The states from which a stage takes its members, and RELEASE its record (R98, R101). -/
def LineState.releasable : LineState → Bool
  | .tending | .held | .fault => true
  | _ => false

/-- Whether slot `h` holds a record that satisfies `test`. -/
def State.holds (s : State) (h : Fin 32) (test : Record → Bool) : Bool := (s.record? h).any test

/-- The handles, ascending, of the records that satisfy `test`. -/
def State.handlesWith (s : State) (test : Record → Bool) : List (Fin 32) :=
  (List.finRange 32).filter fun h => s.holds h test

/-- The handle of the engaged record of a station, if there is one (R23, R121). -/
def State.engagedOn (s : State) (station : Fin 24) : Option (Fin 32) :=
  (List.finRange 32).find? fun h => s.holds h fun r => r.station = station && r.state.engaged

/-! ### Deadlines -/

/-- A running deadline or stall watch freezes with its remaining time (R47). -/
def Deadline.freeze : Deadline → Deadline
  | .running n => .frozen n
  | d => d

/-- A frozen deadline or stall watch is set running with its remaining time (R48). -/
def Deadline.thaw : Deadline → Deadline
  | .frozen n => .running n
  | d => d

/-! ### Time -/

/-- A remaining time after `elapsed` units of 0.1 s. Its last unit is lost only by an expiry command (log 5). -/
def countDown (elapsed remaining : Nat) : Nat := if elapsed < remaining then remaining - elapsed else min remaining 1

/-- A running deadline loses one unit of remaining time for each 0.1 s; a frozen one keeps its own (R27). -/
def Deadline.pass (elapsed : Nat) : Deadline → Deadline
  | .running remaining => .running (countDown elapsed remaining)
  | .frozen remaining => .frozen remaining
  | .absent => .absent

/-- A record's deadline after `elapsed` units of 0.1 s. -/
def Record.pass (elapsed : Nat) (r : Record) : Record := { r with deadline := r.deadline.pass elapsed }

/-- A running stage deadline loses one unit for each 0.1 s; berth hold does not freeze it (R96). -/
def GroupEntry.pass (elapsed : Nat) : GroupEntry → GroupEntry
  | .running stage members remaining => .running stage members (countDown elapsed remaining)
  | .waiting ended => .waiting ended
  | .idle => .idle

/-- `elapsed` units of 0.1 s pass, in which no deadline runs out (R27, R96; log 5). -/
def State.passTime (s : State) (elapsed : Nat) : State :=
  { s with
    table := mapEntries (fun slot => { slot with record := slot.record.map (Record.pass elapsed) }) s.table
    groups := mapEntries (GroupEntry.pass elapsed) s.groups }

/-! ### Station table and command slot -/

/-- The station table entry of a station (R121). -/
def State.entry (s : State) (station : Fin 24) : StationEntry := s.stations[station]

/-- Writes a station table entry. -/
def State.putEntry (s : State) (station : Fin 24) (e : StationEntry) : State :=
  { s with stations := s.stations.set station e }

/-- Whether a station is in the station map (R22). -/
def State.mapped (s : State) (station : Fin 24) : Bool := s.config.map.getLsbD station

/-- Whether a command is a correction step. -/
def Command.isStep : Command → Bool
  | .stepPay _ | .stepHaul _ => true
  | _ => false

/-- The command slot arbitration (R94): whether a command given meets its table's "placed". R94 has no row for a waiting
ZERO, over which no command is ever given; such a command is placed here (log 10). -/
def commandPlaced (waiting : Option Command) (given : Command) : Bool :=
  match waiting with
  | some .free => given = .free
  | some .stopBrake => !given.isStep
  | _ => true

/-- A command is given to the Station Link Controller for a station (R94): placed in the command slot, or discarded. A
command placed after the station's slot has begun is not the command sent in that slot (R126). -/
def State.giveCommand (s : State) (station : Fin 24) (given : Command) : State :=
  if commandPlaced (s.entry station).command given then
    { s.putEntry station { s.entry station with command := some given } with
      scan := if s.scan.station = station
        then { s.scan with slot := s.scan.slot.map fun slot => { slot with replaced := true } }
        else s.scan }
  else s

/-! ### Group table -/

/-- The group table entry of a group (R96). -/
def State.groupEntry (s : State) (g : Fin 8) : GroupEntry := s.groups[g]

/-- Writes a group table entry. -/
def State.putGroup (s : State) (g : Fin 8) (e : GroupEntry) : State := { s with groups := s.groups.set g e }

/-- Takes an event at every group, in order 0 to 7. -/
def State.forGroups (s : State) (f : Fin 8 → State → State) : State :=
  (List.finRange 8).foldl (fun s g => f g s) s

/-! ### Notices -/

/-- The nine notice kinds (section 10); FAULT ENTERED carries a cause (R158). -/
inductive Notice where
  | overload | payLimit | emergencyReleased
  | faultEntered (cause : FaultCause)
  | tendingReached | stowed | haulLimit | resetHold | provingResult
deriving DecidableEq, Repr

/-- Raises a kind in a notice set: it merges with the same kind pending, and a FAULT ENTERED replaces the cause carried
(R158). -/
def NoticeSet.raise (n : NoticeSet) : Notice → NoticeSet
  | .overload => { n with overload := true }
  | .payLimit => { n with payLimit := true }
  | .emergencyReleased => { n with emergencyReleased := true }
  | .faultEntered cause => { n with faultEntered := some cause }
  | .tendingReached => { n with tendingReached := true }
  | .stowed => { n with stowed := true }
  | .haulLimit => { n with haulLimit := true }
  | .resetHold => { n with resetHold := true }
  | .provingResult => { n with provingResult := true }

/-- A kind is raised on a record. -/
def Record.raise (r : Record) (kind : Notice) : Record := { r with notices := r.notices.raise kind }

/-- Whether an alert-class kind is pending (section 10). -/
def NoticeSet.anyAlert (n : NoticeSet) : Bool :=
  n.overload || n.payLimit || n.emergencyReleased || n.faultEntered.isSome

/-- Whether a notice-class kind is pending (section 10). -/
def NoticeSet.anyNotice (n : NoticeSet) : Bool :=
  n.tendingReached || n.stowed || n.haulLimit || n.resetHold || n.provingResult

/-- The alert-class kinds of a set. -/
def NoticeSet.alerts (n : NoticeSet) : NoticeSet :=
  { n with tendingReached := false, stowed := false, haulLimit := false, resetHold := false, provingResult := false }

/-- The notice-class kinds of a set. -/
def NoticeSet.notices (n : NoticeSet) : NoticeSet :=
  { n with overload := false, payLimit := false, emergencyReleased := false, faultEntered := none }

end Sys2Proof.Machine
end

