-- ==== Sys2Proof/Machine/Flags.lean ====
section
/-! DEFINITION. Everything the part computes as a flag: the flags of a station reply, the berth conditions, berth hold,
the berth state on ST1 and ST0, the status byte and attention. None of them is held; each follows the state. -/

namespace Sys2Proof.Machine

/-! ### The flags of a reply (section 7.4) -/

def Frame.brakeSet (f : Frame) : Bool := f.flags.getLsbD 0
def Frame.moving (f : Frame) : Bool := f.flags.getLsbD 1
def Frame.moveDone (f : Frame) : Bool := f.flags.getLsbD 2
def Frame.eyeFast (f : Frame) : Bool := f.flags.getLsbD 3
def Frame.eyeClear (f : Frame) : Bool := f.flags.getLsbD 4
def Frame.stationFault (f : Frame) : Bool := f.flags.getLsbD 5
def Frame.zeroDone (f : Frame) : Bool := f.flags.getLsbD 6
def Frame.toggle (f : Frame) : Bool := f.flags.getLsbD 7

/-- Whether a station's last reply shows a flag; an entry that holds no last reply shows none (R25). -/
def StationEntry.lastShows (e : StationEntry) (flag : Frame → Bool) : Bool := e.lastReply.any flag

/-! ### Berth lines and conditions -/

/-- The function and polarity of a line, from the berth configuration (R136). -/
def State.lineConfig (s : State) (l : Fin 8) : LineConfig := s.config.lines[l]

/-- What the Berth Line Inputs hold of a line (R136). -/
def State.line (s : State) (l : Fin 8) : BerthLine := s.lines[l]

/-- Writes what the Berth Line Inputs hold of a line. -/
def State.putLine (s : State) (l : Fin 8) (b : BerthLine) : State := { s with lines := s.lines.set l b }

/-- The level a polarity calls active (R136). -/
def LineConfig.activeLevel (c : LineConfig) : Level := if c.activeLow then .low else .high

/-- The level a polarity calls inactive (R136). -/
def LineConfig.inactiveLevel (c : LineConfig) : Level := if c.activeLow then .high else .low

/-- Whether a line is active for its function: by its qualified level and polarity, a line with qualified level NONE
counting as active for HOLD and RAMP alone (R136, R138). -/
def State.lineActive (s : State) (l : Fin 8) : Bool :=
  match (s.line l).qualified with
  | some level => level = (s.lineConfig l).activeLevel
  | none => (s.lineConfig l).function = .hold || (s.lineConfig l).function = .ramp

/-- The lines assigned a function. -/
def State.linesOf (s : State) (f : LineFunction) : List (Fin 8) :=
  (List.finRange 8).filter fun l => (s.lineConfig l).function = f

/-- The condition of a function: active while any line assigned it is active; an unassigned CONTACT is active, and every
other unassigned condition inactive (R138). -/
def State.condition (s : State) (f : LineFunction) : Bool :=
  if (s.linesOf f).isEmpty then f = .contact else (s.linesOf f).any s.lineActive

/-- Berth hold is in force while the hold condition or the software hold is active (R141). -/
def State.berthHold (s : State) : Bool := s.condition .hold || s.softwareHold

/-- The interlock on releases: the ramp condition or berth hold is active (R99). -/
def State.interlocked (s : State) : Bool := s.condition .ramp || s.berthHold

/-- A record that berth hold pauses (R47, R49). -/
def State.paused (s : State) (r : Record) : Bool := r.state.moving && s.berthHold

/-- The level that the part drives on a line's pin: that of its latch on a GENERAL OUT line, none on any other
(R136, R139). -/
def State.driven (s : State) (l : Fin 8) : Option Level :=
  if (s.lineConfig l).function = .generalOut then
    some (if (s.line l).latch then (s.lineConfig l).activeLevel else (s.lineConfig l).inactiveLevel)
  else none

/-! ### The state outputs (R148) -/

/-- The four berth states. -/
inductive BerthState where
  | unconfigured | running | hold | emergency
deriving DecidableEq, Repr

/-- The berth state, computed from the emergency latch, berth hold and the configured flag (R148). -/
def State.berthState (s : State) : BerthState :=
  if s.emergencyLatch then .emergency
  else if s.berthHold then .hold
  else if s.configured then .running
  else .unconfigured

/-- The level of ST1 (R148). -/
def State.st1 (s : State) : Bool := s.berthState = .emergency || s.berthState = .hold

/-- The level of ST0 (R148). -/
def State.st0 (s : State) : Bool := s.berthState = .emergency || s.berthState = .running

/-! ### Attention and the status byte -/

/-- ALERT PENDING (R164). -/
def State.alertPending (s : State) : Bool := (List.finRange 32).any fun h => s.holds h fun r => r.notices.anyAlert

/-- NOTICE PENDING, whatever the notices enable holds (R164). -/
def State.noticePending (s : State) : Bool := (List.finRange 32).any fun h => s.holds h fun r => r.notices.anyNotice

/-- REPLY READY: the reply mailbox is READY (R169, R172). -/
def Port.replyReady (p : Port) : Bool :=
  match p.reply with
  | .ready _ _ => true
  | _ => false

/-- REQUEST OPEN: clear from the completion of a request, or from a refused length byte, until the reply has been read to
the end, and while a request whose reply an abort discards is still executing (R170). -/
def Port.requestOpen (p : Port) : Bool := p.executing.isNone && !p.replyReady

/-- ATTN# is asserted (R165); the pin is low while this holds. -/
def State.attention (s : State) : Bool :=
  s.emergencyLatch || s.alertPending || (s.noticesEnable && s.noticePending) ||
    (s.port.replyReadyEnable && s.port.replyReady)

/-- A byte from its bits, bit 0 first. -/
def byteOfBits (b0 b1 b2 b3 b4 b5 b6 b7 : Bool) : Byte :=
  BitVec.ofBool b7 ++ BitVec.ofBool b6 ++ BitVec.ofBool b5 ++ BitVec.ofBool b4 ++ BitVec.ofBool b3 ++ BitVec.ofBool b2 ++
    BitVec.ofBool b1 ++ BitVec.ofBool b0

/-- The status byte at location 1 (R169). -/
def State.statusByte (s : State) : Byte :=
  byteOfBits s.configured s.port.requestOpen s.port.replyReady s.port.overrun s.port.posted.isSome s.noticePending
    s.alertPending s.emergencyLatch

/-- The number of an urgent code (R175). -/
def UrgentCode.byte : UrgentCode → Byte
  | .holdAll => 1
  | .resumeAll => 2
  | .releaseAll => 3

/-- What location 2 reads: the urgent code posted, or 0 (R168, R175). -/
def State.location2 (s : State) : Byte := (s.port.posted.map UrgentCode.byte).getD 0

/-- What location 3 reads: the attention enables (R168). -/
def State.location3 (s : State) : Byte :=
  byteOfBits s.port.replyReadyEnable s.noticesEnable false false false false false false

end Sys2Proof.Machine
end

