-- ==== Sys2Proof/Machine/Header.lean ====
section
/-! DEFINITION. The request table of section 11.6: the 23 request codes, their fixed body lengths, and the bytes of the
messages that carry them (section 11.7). -/

namespace Sys2Proof

/-- The 23 requests of section 11.6. -/
inductive RequestCode where
  | configureBerth | assign | arm | disarm | set | apply | holdLine | resume | release | clearFault | retire | abandon
  | readRecord | find | nextNotice | ackEmergency | stationQuery | zero | proveStart | proveRelease | proveStop
  | readBerth | setOutputs
deriving DecidableEq, Repr

/-- The code byte of a request (section 11.6, column Code). -/
def RequestCode.byte : RequestCode → Byte
  | .configureBerth => 1 | .assign => 2 | .arm => 3 | .disarm => 4 | .set => 5 | .apply => 6 | .holdLine => 7
  | .resume => 8 | .release => 9 | .clearFault => 10 | .retire => 11 | .abandon => 12 | .readRecord => 13 | .find => 14
  | .nextNotice => 15 | .ackEmergency => 16 | .stationQuery => 17 | .zero => 18 | .proveStart => 19
  | .proveRelease => 20 | .proveStop => 21 | .readBerth => 22 | .setOutputs => 23

/-- The request a code byte names, if any (R171). -/
def RequestCode.ofByte (b : Byte) : Option RequestCode :=
  match b.toNat with
  | 1 => some .configureBerth | 2 => some .assign | 3 => some .arm | 4 => some .disarm | 5 => some .set
  | 6 => some .apply | 7 => some .holdLine | 8 => some .resume | 9 => some .release | 10 => some .clearFault
  | 11 => some .retire | 12 => some .abandon | 13 => some .readRecord | 14 => some .find | 15 => some .nextNotice
  | 16 => some .ackEmergency | 17 => some .stationQuery | 18 => some .zero | 19 => some .proveStart
  | 20 => some .proveRelease | 21 => some .proveStop | 22 => some .readBerth | 23 => some .setOutputs
  | _ => none

/-- The fixed body length of a request (section 11.6, column Body length). -/
def RequestCode.bodyLength : RequestCode → Nat
  | .configureBerth => 23 | .assign => 21 | .arm => 2 | .disarm => 2 | .set => 6 | .apply => 2 | .holdLine => 2
  | .resume => 2 | .release => 2 | .clearFault => 1 | .retire => 2 | .abandon => 1 | .readRecord => 1 | .find => 2
  | .nextNotice => 0 | .ackEmergency => 0 | .stationQuery => 2 | .zero => 1 | .proveStart => 7
  | .proveRelease => 1 | .proveStop => 1 | .readBerth => 0 | .setOutputs => 1

/-- The request a completed header names: a known code with the fixed body length of that code (R171). -/
def headerRequest (code : Byte) (length : Nat) : Option RequestCode :=
  (RequestCode.ofByte code).filter fun c => c.bodyLength = length

/-- The bytes of a request message: code, body length, body (section 11.7, request header). -/
def messageBytes (code : Byte) (body : List Byte) : List Byte :=
  code :: BitVec.ofNat 8 body.length :: body

/-- The two bytes of a two-byte value, low byte first (section 1.4). -/
def halfBytes (v : Half) : List Byte := [v.extractLsb' 0 8, v.extractLsb' 8 8]

/-- The body of CONFIGURE BERTH as written (R146); the map's first byte holds stations 0 to 7. -/
def BerthBody.bytes (b : BerthBody) : List Byte :=
  halfBytes b.pay ++ halfBytes b.fast ++ halfBytes b.haul ++ halfBytes b.clear ++ halfBytes b.stall ++ halfBytes b.stage ++
    [b.map.extractLsb' 0 8, b.map.extractLsb' 8 8, b.map.extractLsb' 16 8] ++ b.lines.toList

/-- The body of ASSIGN as written (section 11.6). -/
def AssignBody.bytes (a : AssignBody) : List Byte :=
  [a.station, a.callTag, a.group, a.role] ++ halfBytes a.lRun ++ halfBytes a.lMin ++ halfBytes a.lMax ++
    halfBytes a.p ++ halfBytes a.b ++ halfBytes a.q ++ halfBytes a.k ++ [a.t, a.r, a.s]

/-- Byte `i` of a request body (0 past its end, which the header check rules out). -/
def byteAt (body : List Byte) (i : Nat) : Byte := body.getD i 0

/-- The two-byte value at offset `i` of a request body, low byte first. -/
def halfAt (body : List Byte) (i : Nat) : Half := byteAt body (i + 1) ++ byteAt body i

/-- The CONFIGURE BERTH body that 23 body bytes carry (R146). -/
def BerthBody.ofBytes (body : List Byte) : BerthBody where
  pay := halfAt body 0
  fast := halfAt body 2
  haul := halfAt body 4
  clear := halfAt body 6
  stall := halfAt body 8
  stage := halfAt body 10
  map := byteAt body 14 ++ byteAt body 13 ++ byteAt body 12
  lines := #v[byteAt body 15, byteAt body 16, byteAt body 17, byteAt body 18, byteAt body 19, byteAt body 20,
    byteAt body 21, byteAt body 22]

/-- The ASSIGN body that 21 body bytes carry (section 11.6). -/
def AssignBody.ofBytes (body : List Byte) : AssignBody where
  station := byteAt body 0
  callTag := byteAt body 1
  group := byteAt body 2
  role := byteAt body 3
  lRun := halfAt body 4
  lMin := halfAt body 6
  lMax := halfAt body 8
  p := halfAt body 10
  b := halfAt body 12
  q := halfAt body 14
  k := halfAt body 16
  t := byteAt body 18
  r := byteAt body 19
  s := byteAt body 20

end Sys2Proof
end

