-- ==== Sys2Proof/Machine/Operands.lean ====
section
/-! DEFINITION. The operand forms: reference bytes and targets of requests, the codes used in bodies and reports, and the
characters and frames of the station link, each read and written as sections 7.4, 11.6 and 11.7 lay them out. -/

namespace Sys2Proof.Machine

/-! ### Port operands -/

/-- A number as an index below `n`, if it is one. -/
def finOf (n v : Nat) : Option (Fin n) := if h : v < n then some ⟨v, h⟩ else none

/-- The reference a byte carries: generation in bits 7..5, handle in bits 4..0 (section 11.7). -/
def Ref.ofByte (b : Byte) : Ref where
  handle := (b.extractLsb' 0 5).toFin
  generation := (b.extractLsb' 5 3).toFin

/-- The byte that carries a reference (section 11.7). -/
def Ref.byte (r : Ref) : Byte := BitVec.ofFin (w := 3) r.generation ++ BitVec.ofFin (w := 5) r.handle

/-- Whether a reference names the record of its slot: the slot is not FREE and its generation is the reference's (R6). -/
def State.names (s : State) (ref : Ref) : Bool :=
  (s.record? ref.handle).isSome && s.generation ref.handle = ref.generation

/-- What a request acts on (R80). -/
inductive Target where
  | reference (ref : Ref)
  | group (g : Fin 8)
  | berth
deriving DecidableEq, Repr

/-- A target kind and value byte, or the refusal they draw (R80). -/
def Target.ofBytes (kind value : Byte) : Except Result Target :=
  match kind.toNat with
  | 0 => .ok (.reference (Ref.ofByte value))
  | 1 =>
    match finOf 8 value.toNat with
    | some g => .ok (.group g)
    | none => .error .range
  | 2 => .ok .berth
  | _ => .error .badRequest

/-- The role a code names (section 11.6). -/
def Role.ofByte (b : Byte) : Option Role :=
  match b.toNat with
  | 0 => some .breast
  | 1 => some .head
  | 2 => some .stern
  | 3 => some .spring
  | _ => none

/-- The function a line function code names (R136). -/
def LineFunction.ofCode (code : Nat) : Option LineFunction :=
  match code with
  | 0 => some .generalIn
  | 1 => some .generalOut
  | 2 => some .contact
  | 3 => some .hold
  | 4 => some .ramp
  | 5 => some .emergency
  | _ => none

/-- The diagnostic kind a code names: `some none` for NONE, `none` for a code above 4 (R129). -/
def DiagKind.ofByte (b : Byte) : Option (Option DiagKind) :=
  match b.toNat with
  | 0 => some none
  | 1 => some (some .runningHours)
  | 2 => some (some .brakeWear)
  | 3 => some (some .motorTemperature)
  | 4 => some (some .armCycles)
  | _ => none

/-- A value brought inside a range (section 1.7). -/
def clampNat (low high v : Nat) : Nat := max low (min high v)

/-! ### Codes in reports (section 11.7) -/

def Role.code : Role → Nat
  | .breast => 0 | .head => 1 | .stern => 2 | .spring => 3

def LineState.code : LineState → Nat
  | .prepared => 1 | .armed => 2 | .paying => 3 | .makingFast => 4 | .hauling => 5 | .tending => 6 | .held => 7
  | .releasing => 8 | .rewinding => 9 | .stowed => 10 | .fault => 11

def FaultCause.code : FaultCause → Nat
  | .payTimeout => 1 | .fastTimeout => 2 | .haulTimeout => 3 | .clearTimeout => 4 | .rewindStall => 5 | .haulShort => 6
  | .slack => 7 | .stationLost => 8 | .stationFault => 9 | .reset => 10

def Dir.code : Dir → Nat
  | .pay => 1 | .haul => 2

def ProvePhase.code : ProvePhase → Nat
  | .push => 0 | .dwell => 1 | .settle _ _ => 2

def Presence.code : Presence → Nat
  | .absent => 0 | .present => 1 | .lost => 2

def DiagKind.code : DiagKind → Nat
  | .runningHours => 1 | .brakeWear => 2 | .motorTemperature => 3 | .armCycles => 4

def DiagState.code : DiagState → Nat
  | .empty => 0 | .waiting => 1 | .filled => 2

def LineFunction.code : LineFunction → Nat
  | .generalIn => 0 | .generalOut => 1 | .contact => 2 | .hold => 3 | .ramp => 4 | .emergency => 5

def Level.code : Level → Nat
  | .low => 1 | .high => 2

def Stage.code : Stage → Nat
  | .breast => 1 | .ends => 2 | .spring => 3

def BerthState.code : BerthState → Nat
  | .unconfigured => 0 | .running => 1 | .hold => 2 | .emergency => 3

def Result.code : Result → Nat
  | .done => 0 | .badRequest => 1 | .badRef => 2 | .badState => 3 | .tableFull => 4 | .stationTaken => 5
  | .stationAbsent => 6 | .range => 7 | .interlock => 8 | .notConfigured => 9 | .busy => 10

/-- One report byte from a number. -/
def byteOf (n : Nat) : Byte := BitVec.ofNat 8 n

/-- Two report bytes from a number, low byte first (section 1.4). -/
def halfOf (n : Nat) : List Byte := halfBytes (BitVec.ofNat 16 n)

/-- Two report bytes from a signed number, in two's complement. -/
def signedHalfOf (n : Int) : List Byte := halfBytes (BitVec.ofInt 16 n)

/-! ### Characters of the station link (R114) -/

/-- How many of a character's data and type bits, bits 1 to 9, are ones. -/
def LinkChar.ones (c : LinkChar) : Nat := (List.range 9).countP fun i => c.getLsbD (i + 1)

/-- The data byte of a character, bits 1 to 8. -/
def LinkChar.data (c : LinkChar) : Byte := c.extractLsb' 1 8

/-- The character that carries a data byte with a type bit: start bit 0, even parity, stop bit 1 (R114). -/
def linkChar (isAddress : Bool) (data : Byte) : LinkChar :=
  let bits : BitVec 10 := BitVec.ofBool isAddress ++ data ++ 0#1
  let odd := (List.range 9).countP (fun i => bits.getLsbD (i + 1)) % 2 = 1
  1#1 ++ BitVec.ofBool odd ++ bits

/-- Whether a received character is good: even parity, stop bit 1 and type bit 0 (R114). -/
def LinkChar.good (c : LinkChar) : Bool :=
  (LinkChar.ones c + (c.getLsbD 10).toNat) % 2 = 0 && c.getLsbD 11 && !c.getLsbD 9

/-- The data bytes of received characters, if every one is good. -/
def goodData (chars : List LinkChar) : Option (List Byte) :=
  if chars.all LinkChar.good then some (chars.map LinkChar.data) else none

/-- The sum of bytes modulo 256, which a check character carries (section 7.4). -/
def checkSum (bytes : List Byte) : Byte := bytes.foldl (· + ·) 0

/-- The reply frame that six characters carry, if they are intact: each is good, the check agrees, and the unused high
bits of tension and length are 0 (R119). -/
def replyFrame (chars : List LinkChar) : Option Frame :=
  match goodData chars with
  | some [flags, m0, m1, l0, l1, check] =>
    if check = checkSum [flags, m0, m1, l0, l1] && m1.extractLsb' 5 3 = 0 && l1.extractLsb' 6 2 = 0 then
      some { flags := flags, tension := (m1 ++ m0 : Half).toNat, length := (l1 ++ l0 : Half).toNat }
    else none
  | _ => none

/-- The kind code and value that the characters after a reply frame carry, if they are exactly four good characters whose
check agrees (R130). -/
def diagnosticFrame (chars : List LinkChar) : Option (Byte × Half) :=
  match goodData chars with
  | some [kind, v0, v1, check] => if check = checkSum [kind, v0, v1] then some (kind, v1 ++ v0) else none
  | _ => none

/-- The slot kind code of an address character (section 7.4). -/
def SlotKind.code : SlotKind → Nat
  | .silent => 0 | .poll => 1 | .command _ _ => 2 | .query _ => 3

/-- The code of a command (section 7.4). -/
def Command.code : Command → Nat
  | .stopBrake => 1 | .payTo _ => 2 | .haulUntil _ => 3 | .stepPay _ => 4 | .stepHaul _ => 5 | .free => 6 | .rewind => 7
  | .zero => 8

/-- The argument bytes of a command, low byte first (section 7.4). -/
def Command.argument : Command → List Byte
  | .payTo n | .haulUntil n => halfOf n
  | .stepPay n | .stepHaul n => [byteOf n]
  | _ => []

/-- The data bytes of a command with the toggle it carries: code in bits 3..0, toggle in bit 7 (section 7.4). -/
def Command.dataBytes (c : Command) (toggle : Bool) : List Byte :=
  (BitVec.ofBool toggle ++ 0#3 ++ BitVec.ofNat 4 c.code) :: c.argument

/-- The address byte of a slot: kind in bits 7..5, station in bits 4..0 (section 7.4). -/
def addressByte (kind : SlotKind) (station : Fin 24) : Byte :=
  BitVec.ofNat 3 kind.code ++ BitVec.ofNat 5 station.val

/-- The data bytes that follow the address character of a slot (R118). -/
def SlotKind.dataBytes : SlotKind → List Byte
  | .command c toggle => c.dataBytes toggle
  | .query kind => [byteOf kind.code]
  | .silent | .poll => []

/-- The characters the controller sends in a slot: none in a silent one, else the address character and then data
characters (R114, R115, R118). -/
def slotCharacters (kind : SlotKind) (station : Fin 24) : List LinkChar :=
  match kind with
  | .silent => []
  | _ => linkChar true (addressByte kind station) :: kind.dataBytes.map (linkChar false)

/-- LDIR at a time in microseconds from the start of a slot: high while the slot's characters are sent, 48 µs each
(R114, R115), one directly after another from the start of the slot (log 12). -/
def LinkSlot.ldir (slot : LinkSlot) (us : Nat) : Bool := decide (us < 48 * slot.sent.length)

/-- The bit on LTX at a time in microseconds from the start of a slot, while LDIR is high: 4 µs a bit (R114). -/
def LinkSlot.ltx (slot : LinkSlot) (us : Nat) : Option Bool :=
  slot.sent[us / 48]?.map fun c => c.getLsbD (us % 48 / 4)

end Sys2Proof.Machine
end

