-- ==== Sys2Proof/Machine/Release.lean ====
section
/-! DEFINITION. The Release Sequencer: entry to RELEASING, the stages of a staged release and their ends, and emergency
release (R96 to R113). -/

namespace Sys2Proof.Machine

/-! ### Entry to RELEASING -/

/-- The record part of the entry to RELEASING (R97): the clear time runs, a step in flight, a proving part and a fault
cause are removed, the trip deferred flag is cleared, and everything else is kept. -/
def Record.releasing (r : Record) (clear : Nat) : Record :=
  { r with
    state := .releasing
    deadline := .running clear
    step := none
    tripDeferred := false
    proving := none
    faultCause := none }

/-- A record enters RELEASING: FREE is given for its station (R97). -/
def State.enterReleasing (s : State) (h : Fin 32) : State :=
  s.withRecord h fun r => (s.putRecord h (r.releasing s.config.timeouts.clear)).giveCommand r.station .free

/-! ### Stages -/

/-- The stage that releases a role (R101). -/
def Role.stage : Role → Stage
  | .breast => .breast
  | .head | .stern => .ends
  | .spring => .spring

/-- The stages that come after a stage (R96). -/
def Stage.later : Stage → List Stage
  | .breast => [.ends, .spring]
  | .ends => [.spring]
  | .spring => []

/-- The records a stage of a group gathers: those of its roles in TENDING, HELD or FAULT, in ascending handle order
(R101). -/
def State.stageMembers (s : State) (g : Fin 8) (stage : Stage) : List (Fin 32) :=
  s.handlesWith fun r => r.group = g && r.role.stage = stage && r.state.releasable

/-- One stage starts with its members: the entry is RUNNING with their references and the stage time, and each enters
RELEASING (R101). -/
def State.beginStage (s : State) (g : Fin 8) (stage : Stage) (members : List (Fin 32)) : State :=
  members.foldl State.enterReleasing
    (s.putGroup g (.running stage (members.map s.refOf) s.config.timeouts.stage))

/-- The first stage of the list that has members starts; if none has, the stage becomes NONE (R101). -/
def State.startStage (g : Fin 8) : List Stage → State → State
  | [], s => s.putGroup g .idle
  | stage :: rest, s =>
    match s.stageMembers g stage with
    | [] => State.startStage g rest s
    | members => s.beginStage g stage members

/-- A stage has ended (R104): the next starts at once unless an interlock is active, when the group waits. After SPRING
the stage becomes NONE. -/
def State.stageEnded (s : State) (g : Fin 8) (ended : Stage) : State :=
  if s.interlocked && ended ≠ .spring then s.putGroup g (.waiting ended)
  else State.startStage g ended.later s

/-- A record has left RELEASING: it is removed from its group's member list if it is listed there, and a list that becomes
empty ends the stage (R102). -/
def State.removeMember (s : State) (g : Fin 8) (ref : Ref) : State :=
  match s.groupEntry g with
  | .running stage members remaining =>
    if ref ∈ members then
      match members.filter (· ≠ ref) with
      | [] => s.stageEnded g stage
      | left => s.putGroup g (.running stage left remaining)
    else s
  | _ => s

/-- A WAITING group starts its next stage, if both interlocks are clear (R104). -/
def State.startWaiting (g : Fin 8) (s : State) : State :=
  match s.groupEntry g with
  | .waiting ended => if s.interlocked then s else State.startStage g ended.later s
  | _ => s

/-- After `elapsed` units of 0.1 s a RUNNING stage whose deadline has run out ends, its member list emptied (R103). The
deadline of a stage started since still has its time. -/
def State.expireStage (s : State) (g : Fin 8) (elapsed : Nat) : State :=
  match s.groupEntry g with
  | .running stage _ remaining =>
    if remaining ≤ elapsed then (s.passTime elapsed).stageEnded g stage else s.passTime elapsed
  | .waiting _ | .idle => s.passTime elapsed

/-! ### Emergency release -/

/-- What emergency release does with one record (R109). -/
def State.emergencyReleaseRecord (h : Fin 32) (s : State) : State :=
  s.withRecord h fun r =>
    match r.state with
    | .paying | .makingFast | .hauling | .tending | .held | .fault =>
      (s.enterReleasing h).modifyRecord h (·.raise .emergencyReleased)
    | .armed => s.putRecord h (Record.raise { r with state := .prepared, deadline := .absent } .emergencyReleased)
    | .prepared | .releasing | .rewinding | .stowed => s

/-- Emergency release: every group's stage becomes NONE (R110) and every record is dealt with by its state (R109), as one
event. -/
def State.emergencyRelease (s : State) : State :=
  (s.forGroups fun g s => s.putGroup g .idle).forRecords State.emergencyReleaseRecord

end Sys2Proof.Machine
end

