-- ==== Sys2Proof/Machine/Lines.lean ====
section
/-! DEFINITION. The Line State Unit: entry to FAULT, entry to the moving states under or without berth hold, the other
transitions of the line state machine, and the application of a pending part that goes with entry to TENDING. -/

namespace Sys2Proof.Machine

/-! ### Entry to FAULT -/

/-- The record part of the entry to FAULT with a cause (R26, R42). -/
def Record.faulted (r : Record) (cause : FaultCause) : Record :=
  Record.raise
    { r with
      state := .fault
      faultCause := some cause
      deadline := .absent
      step := none
      proving := none
      tripDeferred := false }
    (.faultEntered cause)

/-- A record enters FAULT from an engaged state other than FAULT: STOP-BRAKE is given for its station, and it is counted as
having left RELEASING (R26). -/
def State.enterFault (s : State) (h : Fin 32) (cause : FaultCause) : State :=
  s.withRecord h fun r =>
    ((s.putRecord h (r.faulted cause)).giveCommand r.station .stopBrake).removeMember r.group (s.refOf h)

/-- A failure reaches the engaged record in slot `h` (R43, R44, R45): an ARMED record returns to PREPARED, a record in
FAULT is kept, and one in any other engaged state enters FAULT. -/
def State.failRecord (s : State) (h : Fin 32) (cause : FaultCause) : State :=
  s.withRecord h fun r =>
    match r.state with
    | .armed => s.putRecord h { r with state := .prepared, deadline := .absent }
    | .fault | .prepared | .stowed => s
    | .paying | .makingFast | .hauling | .tending | .held | .releasing | .rewinding => s.enterFault h cause

/-- The fault cause of a deadline's expiry in a state that holds one (R28). -/
def LineState.expiryCause : LineState → Option FaultCause
  | .paying => some .payTimeout
  | .makingFast => some .fastTimeout
  | .hauling => some .haulTimeout
  | .releasing => some .clearTimeout
  | .rewinding => some .rewindStall
  | .prepared | .armed | .tending | .held | .stowed | .fault => none

/-- The fault cause with which a record's deadline runs out after `elapsed` units of 0.1 s (R28, R29), if it does: a
running deadline with no more remaining time than that. A deadline set since, by a completion taken first, still has its
time (R30). -/
def Record.runsOut (r : Record) (elapsed : Nat) : Option FaultCause :=
  match r.deadline with
  | .running remaining => if remaining ≤ elapsed then r.state.expiryCause else none
  | .frozen _ | .absent => none

/-- After `elapsed` units of 0.1 s the record in slot `h` enters FAULT if its remaining time has run out (R28, R30). -/
def State.expireDeadline (s : State) (h : Fin 32) (elapsed : Nat) : State :=
  match (s.record? h).bind (·.runsOut elapsed) with
  | some cause => (s.passTime elapsed).enterFault h cause
  | none => s.passTime elapsed

/-! ### Entry to the moving states -/

/-- The command that a record's moving state places (R35, R37, R106). -/
def Record.moveCommand (r : Record) : Command :=
  match r.state with
  | .paying => .payTo r.lRun
  | .hauling => .haulUntil (r.p - r.b)
  | _ => .rewind

/-- A record, already given its new moving state, enters it: its continuous command is given and its deadline set running,
or, under berth hold, STOP-BRAKE is given and the deadline frozen with the full time (R27, R47). -/
def State.enterMoving (s : State) (h : Fin 32) (r : Record) (time : Nat) : State :=
  if s.berthHold then
    (s.putRecord h { r with deadline := .frozen time }).giveCommand r.station .stopBrake
  else (s.putRecord h { r with deadline := .running time }).giveCommand r.station r.moveCommand

/-- Entry to PAYING (R35). -/
def State.enterPaying (s : State) (h : Fin 32) : State :=
  s.withRecord h fun r => s.enterMoving h { r with state := .paying } s.config.timeouts.pay

/-- Entry to MAKING_FAST (R36). -/
def State.enterMakingFast (s : State) (h : Fin 32) : State :=
  s.modifyRecord h fun r => { r with state := .makingFast, deadline := .running s.config.timeouts.fast }

/-- Entry to HAULING (R37). -/
def State.enterHauling (s : State) (h : Fin 32) : State :=
  s.withRecord h fun r => s.enterMoving h { r with state := .hauling } s.config.timeouts.haul

/-- Entry to REWINDING, from RELEASING or from FAULT (R106, R46): the record is removed from its group's member list if it
is listed there. -/
def State.enterRewinding (s : State) (h : Fin 32) : State :=
  s.withRecord h fun r =>
    (s.enterMoving h { r with state := .rewinding, faultCause := none } s.config.timeouts.stall).removeMember r.group
      (s.refOf h)

/-- The contact condition becomes active: an ARMED record enters PAYING (R35). -/
def State.contactArrives (h : Fin 32) (s : State) : State :=
  if s.holds h fun r => r.state = .armed then s.enterPaying h else s

/-! ### Application of a pending part -/

/-- The setpoint range's clamp of an application (R85, step 1). -/
def Record.clampSetpoint (r : Record) (p : Nat) : Nat := clampNat (max 10 (r.k + 2)) (min 7000 (r.q - 2)) p

/-- The band's clamp of an application to a clamped setpoint (R85, step 2). -/
def Record.clampBand (r : Record) (p b : Nat) : Nat :=
  clampNat 1 (min (min 500 (p / 4)) (min (r.q - p - 1) (p - r.k - 1))) b

/-- A pending part is clamped, becomes the active setpoint and band, and is removed (R84, R85). -/
def Record.applied (r : Record) (part : PendingPart) : Record :=
  { r with
    p := r.clampSetpoint part.p
    b := r.clampBand (r.clampSetpoint part.p) part.b
    pending := none }

/-- The drift count is restarted (R62). -/
def Record.restarted (r : Record) : Record := { r with c := 0, lean := none }

/-- The record part of the entry to TENDING from HAULING (R38, R62, R88). -/
def Record.tensionReached (r : Record) : Record :=
  let r := match r.pending with
    | some part => r.applied part
    | none => r
  Record.raise { r.restarted with state := .tending, deadline := .absent, slackRun := 0 } .tendingReached

/-! ### Berth hold on one record -/

/-- Berth hold comes into force: a moving record becomes paused (R47). -/
def State.pauseRecord (h : Fin 32) (s : State) : State :=
  s.withRecord h fun r =>
    if r.state.moving then
      (s.putRecord h { r with deadline := r.deadline.freeze }).giveCommand r.station .stopBrake
    else s

/-- Berth hold ends: a paused record carries on with its command and its remaining time (R48). -/
def State.unpauseRecord (h : Fin 32) (s : State) : State :=
  s.withRecord h fun r =>
    if r.state.moving then
      (s.putRecord h { r with deadline := r.deadline.thaw }).giveCommand r.station r.moveCommand
    else s

/-! ### The completion flags of a sample -/

/-- Whether a frame shows tension reached for a record (R38). -/
def Record.atTension (r : Record) (f : Frame) : Bool := f.brakeSet && decide (r.p - r.b ≤ f.tension)

/-- The completion flags of a fresh sample, acted on by a record that is not paused and whose state waits for them (R25,
R36 to R39, R106 to R108, R29). `r` is the record as the sample left it, with M and L written, and `before` the L it held
before the sample. -/
def State.actOnFlags (s : State) (h : Fin 32) (r : Record) (before : Nat) (f : Frame) : State :=
  match r.state with
  | .paying => if f.moveDone then s.enterMakingFast h else s
  | .makingFast => if f.eyeFast then s.enterHauling h else s
  | .hauling =>
    if r.atTension f then s.putRecord h r.tensionReached
    else if f.length ≤ r.lMin then s.enterFault h .haulShort
    else s
  | .releasing => if f.eyeClear then s.enterRewinding h else s
  | .rewinding =>
    if f.moveDone && f.length = 0 then
      s.putRecord h (Record.raise { r with state := .stowed, deadline := .absent } .stowed)
    else if f.length < before then s.putRecord h { r with deadline := .running s.config.timeouts.stall }
    else s
  | .prepared | .armed | .tending | .held | .stowed | .fault => s

end Sys2Proof.Machine
end

