-- ==== Sys2Proof/Machine/Regulator.lean ====
section
/-! DEFINITION. The Tension Regulator and the Proving Unit: the effective setpoint, votes, the drift count, trips and
correction steps, overload, slack, and the phases of a proving cycle (R52 to R78, R149 to R156). -/

namespace Sys2Proof.Machine

/-! ### The effective setpoint -/

/-- A signed value brought inside a range. -/
def clampInt (low high v : Int) : Int := max low (min high v)

/-- The proving offset, 0 without a proving part (R56). -/
def Record.offset (r : Record) : Int := (r.proving.map ProvingPart.offset).getD 0

/-- E, the effective setpoint (R56). -/
def Record.effective (r : Record) : Int :=
  clampInt (r.k + r.b + 1) (r.q - r.b - 1) (r.p + r.offset)

/-- e = M − E, the error of a sample (R59). -/
def Record.error (r : Record) : Int := r.m - r.effective

/-- A sample inside the band (R59). -/
def Record.inBand (r : Record) : Bool := decide (r.error.natAbs ≤ r.b)

/-! ### Overload, slack and step totals -/

/-- The overload episode at a TENDING sample (R57). -/
def Record.noteOverload (r : Record) : Record :=
  if r.q ≤ r.m then
    if r.overload then r else Record.raise { r with overload := true } .overload
  else if r.m < r.q - r.b then { r with overload := false }
  else r

/-- The slack run at a voted sample, 0 to 5 (R58). -/
def Record.countSlack (r : Record) : Record :=
  { r with slackRun := if r.m ≤ r.k then min 5 (r.slackRun + 1) else 0 }

/-- A total counted up by 1, staying at 65535 (R77). -/
def countStep (total : Nat) : Nat := min 65535 (total + 1)

/-- A step in flight completes: its part is removed and counted in the total of its direction (R73, R74, R77). -/
def Record.completeStep (r : Record) : Record :=
  match r.step with
  | some { dir := .pay, .. } => { r with step := none, stepsPaid := countStep r.stepsPaid }
  | some { dir := .haul, .. } => { r with step := none, stepsHauled := countStep r.stepsHauled }
  | none => r

/-! ### Votes -/

/-- The weight of a vote, 1 to 8 (R60). -/
def Record.voteWeight (r : Record) : Nat :=
  if r.overload then 8 else min 8 (1 + (r.error.natAbs - r.b - 1) / r.b)

/-- The direction of a vote (R59). -/
def Record.voteDir (r : Record) : Dir := if 0 < r.error then .pay else .haul

/-- A vote updates the drift count and the lean (R61); a disagreeing one clears the trip deferred flag (R70), and a flip
ends both limit episodes (R67). -/
def Record.voted (r : Record) (dir : Dir) (w : Nat) : Record :=
  match r.lean with
  | none => { r with c := min r.t w, lean := some dir }
  | some lean =>
    if lean = dir then { r with c := min r.t (r.c + w) }
    else if w ≤ r.c then { r with c := r.c - w, tripDeferred := false }
    else { r with
      c := min r.t (w - r.c), lean := some dir, tripDeferred := false, payLimit := false, haulLimit := false }

/-! ### Trips and correction steps -/

/-- The amount of a correction step (R64). -/
def Record.stepAmount (r : Record) : Dir → Nat
  | .pay => min r.stepSize (r.lMax - r.len)
  | .haul => min r.stepSize (r.len - r.lMin)

/-- A trip with amount 0: the limit episode of its direction starts, with its notice, unless it is under way (R66). -/
def Record.atLimit (r : Record) : Dir → Record
  | .pay => if r.payLimit then r else Record.raise { r with payLimit := true } .payLimit
  | .haul => if r.haulLimit then r else Record.raise { r with haulLimit := true } .haulLimit

/-- The Proving Unit counts a step issued in SETTLE, up to 255 (R151). -/
def ProvingPart.countIssued (p : ProvingPart) : ProvingPart :=
  match p.phase with
  | .settle steps first => { p with phase := .settle (min 255 (steps + 1)) first }
  | _ => p

/-- A correction step is issued (R65). -/
def Record.issueStep (r : Record) (dir : Dir) (amount : Nat) : Record :=
  { r with
    step := some { dir := dir, amount := amount }
    c := r.r
    tripDeferred := false
    payLimit := false
    haulLimit := false
    proving := r.proving.map ProvingPart.countIssued }

/-- The command of a correction step (R65). -/
def stepCommand (dir : Dir) (amount : Nat) : Command :=
  match dir with
  | .pay => .stepPay amount
  | .haul => .stepHaul amount

/-- Whether a FREE or a STOP-BRAKE waits in a station's command slot (R63, step 4). -/
def State.stepBlocked (s : State) (station : Fin 24) : Bool :=
  (s.entry station).command = some .free || (s.entry station).command = some .stopBrake

/-- A trip from step 2 of R63: a limit episode (R66), a deferral (R69) or a correction step (R65). -/
def State.takeTrip (s : State) (h : Fin 32) : State :=
  s.withRecord h fun r =>
    match r.lean with
    | none => s
    | some dir =>
      if r.stepAmount dir = 0 then s.putRecord h (r.atLimit dir)
      else if s.stepBlocked r.station then s.putRecord h { r with tripDeferred := true }
      else (s.putRecord h (r.issueStep dir (r.stepAmount dir))).giveCommand r.station
        (stepCommand dir (r.stepAmount dir))

/-- A trip (R63): deferred while berth hold is in force (R68). -/
def State.trip (s : State) (h : Fin 32) : State :=
  if s.berthHold then s.modifyRecord h fun r => { r with tripDeferred := true } else s.takeTrip h

/-- The end of berth hold takes a deferred trip of a TENDING record (R71). -/
def State.takeDeferredTrip (h : Fin 32) (s : State) : State :=
  if s.holds h fun r => r.state = .tending && r.tripDeferred && r.c = r.t && r.step.isNone then
    (s.modifyRecord h fun r => { r with tripDeferred := false }).takeTrip h
  else s

/-! ### Proving phases -/

/-- Entry to SETTLE (R154). -/
def ProvingPart.settling (p : ProvingPart) : ProvingPart :=
  { p with phase := .settle 0 none, counter := 0, offset := 0 }

/-- A voted sample in PUSH first moves the offset and clamps it (R152). -/
def Record.movePush (r : Record) : Record :=
  match r.proving with
  | some p =>
    match p.phase with
    | .push =>
      { r with proving := some { p with
        offset := clampInt (r.k + r.b + 1 - r.p) (r.q - r.b - 1 - r.p)
          (if p.raises then p.offset + p.increment else p.offset - p.increment) } }
    | _ => r
  | none => r

/-- A voted sample is counted in its phase, after the vote and any trip (R152 to R154). `inBand` says whether the sample
lay inside the band it was voted against. -/
def Record.countProving (r : Record) (inBand : Bool) : Record :=
  match r.proving with
  | none => r
  | some p =>
    match p.phase with
    | .push =>
      if p.pushCount ≤ p.counter + 1 then
        { r with proving := some (if p.dwells then { p with phase := .dwell, counter := 0 } else p.settling) }
      else { r with proving := some { p with counter := p.counter + 1 } }
    | .dwell => { r with proving := some { p with counter := min 65535 (p.counter + 1) } }
    | .settle steps first =>
      let first' := if first.isNone && inBand then some p.counter else first
      if p.settleCount ≤ p.counter + 1 then
        Record.raise { r with proving := some { p with
          phase := .push, counter := 0, lastSteps := steps, lastInBand := first' } } .provingResult
      else { r with proving := some { p with phase := .settle steps first', counter := p.counter + 1 } }

/-! ### The regulator's dealing with a sample -/

/-- A voted sample that has passed the slack test (R53 step 4, R59 to R63, R151): the record, its offset moved, votes
unless the sample lies in its band; a vote that brings C to T trips; then the sample is counted in its proving phase. -/
def State.voteSample (s : State) (h : Fin 32) (r : Record) : State :=
  if r.inBand then s.putRecord h (r.countProving true)
  else
    let voted := r.voted r.voteDir r.voteWeight
    let s := s.putRecord h voted
    (if voted.c = voted.t then s.trip h else s).modifyRecord h (·.countProving false)

/-- A sample given to a TENDING record (R53). `done` says that it is fresh and shows MOVE DONE. -/
def State.regulateTending (s : State) (h : Fin 32) (r : Record) (done : Bool) : State :=
  let r := if done then r.completeStep else r
  let r := r.noteOverload
  if r.step.isNone && s.configured then
    let r := r.countSlack
    if r.slackRun = 5 then (s.putRecord h r).enterFault h .slack
    else s.voteSample h r.movePush
  else s.putRecord h r

/-- A sample given to a HELD record (R55, R74). -/
def State.regulateHeld (s : State) (h : Fin 32) (r : Record) (done : Bool) : State :=
  s.putRecord h (if done then r.completeStep else r)

end Sys2Proof.Machine
end

