-- ==== Sys2Proof/Machine/BerthInputs.lean ====
section
/-! DEFINITION. The Berth Line Inputs: the events of the berth conditions, berth hold and the emergency latch, the
qualification of the lines, and the urgent codes' effects (R136 to R148). -/

namespace Sys2Proof.Machine

/-! ### Berth hold -/

/-- Berth hold comes into force (R47, R141). -/
def State.startHold (s : State) : State := s.forRecords State.pauseRecord

/-- Whether the stage of a WAITING group starts before the deferred trips of an end of hold are taken: a free value, since
either may be taken first (R112). -/
def State.startWaitingFirst (order : Nat) (g : Fin 8) (s : State) : State :=
  match s.groupEntry g with
  | .waiting _ => if Config.stageStartsFirst order g then s.startWaiting g else s
  | _ => s

/-- Berth hold ends (R48, R71, R104, R141): paused records carry on, deferred trips are taken, and each WAITING group
starts its next stage if the ramp condition is inactive, before or after the trips (R112). -/
def State.endHold (s : State) : State :=
  let order := s.holdEnds
  let s := { s with holdEnds := order + 1 }
  let s := s.forRecords State.unpauseRecord
  let s := s.forGroups (State.startWaitingFirst order)
  let s := s.forRecords State.takeDeferredTrip
  s.forGroups State.startWaiting

/-- Berth hold is compared with what it was, and its coming into force or its end is taken (R141). -/
def State.takeHoldChange (s : State) (was : Bool) : State :=
  if !was && s.berthHold then s.startHold
  else if was && !s.berthHold then s.endHold
  else s

/-- The software hold is set or cleared (R142). -/
def State.writeSoftwareHold (s : State) (on : Bool) : State :=
  let was := s.berthHold
  { s with softwareHold := on }.takeHoldChange was

/-! ### Emergency latch -/

/-- A cause that sets the emergency latch is taken: the latch is set and the emergency release performed, whether the
latch was clear or already set (R143). -/
def State.setEmergency (s : State) : State := { s with emergencyLatch := true }.emergencyRelease

/-! ### Condition changes -/

/-- The berth conditions and berth hold, as the other blocks last saw them (R138). -/
structure Conditions where
  contact : Bool
  ramp : Bool
  emergency : Bool
  berthHold : Bool
deriving DecidableEq, Repr

/-- The conditions as they stand. -/
def State.conditions (s : State) : Conditions where
  contact := s.condition .contact
  ramp := s.condition .ramp
  emergency := s.condition .emergency
  berthHold := s.berthHold

/-- The conditions are recomputed, and each change from what they were is taken by the blocks whose rules name it (R138,
R141, R143). -/
def State.takeConditionChanges (s : State) (was : Conditions) : State :=
  let now := s.conditions
  let s := if !was.contact && now.contact then s.forRecords State.contactArrives else s
  let s := s.takeHoldChange was.berthHold
  let s := if was.ramp && !now.ramp then s.forGroups State.startWaiting else s
  if !was.emergency && now.emergency then s.setEmergency else s

/-! ### Qualification of the lines -/

/-- Whether a line is an input (R136). -/
def State.isInput (s : State) (l : Fin 8) : Bool := (s.lineConfig l).function ≠ .generalOut

/-- The level on an input line's pin has been stable for 50 ms: it becomes the line's qualified level, and the conditions
are recomputed (R137). Nothing is taken of an output line or of a line that has nothing to qualify. -/
def State.qualify (s : State) (l : Fin 8) : State :=
  if s.isInput l && (s.line l).qualifying then
    let was := s.conditions
    (s.putLine l { s.line l with qualified := some (s.line l).pin, qualifying := false }).takeConditionChanges was
  else s

/-- The level that the berth puts on a line's pin changes: on an input line the 50 ms start afresh (R137). -/
def State.changePin (s : State) (l : Fin 8) (level : Level) : State :=
  if (s.line l).pin = level then s
  else s.putLine l { s.line l with pin := level, qualifying := s.isInput l }

/-! ### Urgent codes -/

/-- An urgent code is handed to the Berth Line Inputs (R142, R143, R176). -/
def State.takeUrgent (s : State) : UrgentCode → State
  | .holdAll => s.writeSoftwareHold true
  | .resumeAll => s.writeSoftwareHold false
  | .releaseAll => s.setEmergency

end Sys2Proof.Machine
end

