-- ==== Sys2Proof/Machine/Link.lean ====
section
/-! DEFINITION. The Station Link Controller: the slots of the scan, the judging of replies, command delivery, presence,
diagnostic queries and zeroing, and the giving of a good reply as a sample (R24, R25, R114 to R135). -/

namespace Sys2Proof.Machine

/-! ### A slot begins -/

/-- The kind of a mapped station's slot, from its entry as it stands (R118). -/
def StationEntry.slotKind (e : StationEntry) : SlotKind :=
  match e.command, e.pendingKind with
  | some command, _ => .command command e.toggle
  | none, some kind => .query kind
  | none, none => .poll

/-- A QUERY slot begins: the pending kind is removed and the diagnostic slot waits for it, its value kept (R130). -/
def StationEntry.querySent (e : StationEntry) (kind : DiagKind) : StationEntry :=
  { e with pendingKind := none, diagState := .waiting, diagKind := some kind }

/-- The kind of the slot that begins next: silent outside the station map (R115, R118). -/
def State.nextSlotKind (s : State) : SlotKind :=
  if s.mapped s.scan.station then (s.entry s.scan.station).slotKind else .silent

/-- The next slot of the scan begins (R116, R118): its characters are sent. Without the configured flag the link is silent
(R115), and while a slot is in progress no other begins. -/
def State.beginSlot (s : State) : State :=
  if s.configured && s.scan.slot.isNone then
    let kind := s.nextSlotKind
    let s := match kind with
      | .query k => s.putEntry s.scan.station ((s.entry s.scan.station).querySent k)
      | _ => s
    { s with scan := { s.scan with
      slot := some { kind := kind, sent := slotCharacters kind s.scan.station, replaced := false } } }
  else s

/-! ### A good reply -/

/-- Presence and last reply (R122, steps 1 and 2). -/
def StationEntry.answered (e : StationEntry) (f : Frame) : StationEntry :=
  { e with presence := .present, missCount := 0, lastReply := some f }

/-- Delivery (R122 step 3, R125, R126): the command sent in the slot is delivered when it is still the one waiting and the
reply shows the toggle it carried. -/
def StationEntry.delivered (e : StationEntry) (slot : LinkSlot) (f : Frame) : StationEntry :=
  match slot.kind with
  | .command _ toggle =>
    if !slot.replaced && e.command.isSome && f.toggle = toggle then { e with command := none, toggle := !e.toggle }
    else e
  | _ => e

/-- With the command slot empty, the toggle is set opposite to the reply's (R127). -/
def StationEntry.resynced (e : StationEntry) (f : Frame) : StationEntry :=
  if e.command.isNone then { e with toggle := !f.toggle } else e

/-- ZERO DONE with the ZERO delivered clears zeroing (R122 step 4, R133). -/
def StationEntry.zeroSeen (e : StationEntry) (f : Frame) : StationEntry :=
  if e.zeroing && e.command.isNone && f.zeroDone then { e with zeroing := false } else e

/-- A kind sent becomes pending again, unless another has been set since (R130). -/
def StationEntry.askAgain (e : StationEntry) (kind : DiagKind) : StationEntry :=
  { e with pendingKind := some (e.pendingKind.getD kind) }

/-- The diagnostic frame of a good reply in a QUERY slot (R122 step 5, R130). -/
def StationEntry.diagnosed (e : StationEntry) (slot : LinkSlot) (extra : List LinkChar) : StationEntry :=
  match slot.kind with
  | .query kind =>
    match diagnosticFrame extra with
    | some (code, value) =>
      if code.toNat = kind.code then { e with diagState := .filled, diagKind := some kind, diagValue := value }
      else e.askAgain kind
    | none => e.askAgain kind
  | _ => e

/-- Steps 1 to 5 of a good reply on the station table entry (R122). -/
def StationEntry.goodReply (e : StationEntry) (slot : LinkSlot) (f : Frame) (extra : List LinkChar) : StationEntry :=
  (((((e.answered f).delivered slot f).resynced f).zeroSeen f).diagnosed slot extra)

/-- A sample given to the engaged record in slot `h` (R24): M and L are written, then the Line State Unit deals with the
flags in the order of R25, and the Tension Regulator with a record that was TENDING or HELD (R53). -/
def State.sample (s : State) (h : Fin 32) (f : Frame) : State :=
  s.withRecord h fun old =>
    let r := { old with m := f.tension, len := f.length }
    let s := s.putRecord h r
    let fresh := (s.entry r.station).command.isNone
    if f.stationFault then s.failRecord h .stationFault
    else match r.state with
      | .tending => s.regulateTending h r (fresh && f.moveDone)
      | .held => s.regulateHeld h r (fresh && f.moveDone)
      | _ => if fresh && !s.paused r then s.actOnFlags h r old.len f else s

/-- A good reply from a station, as one event (R122): the entry, then the sample to the station's engaged record, if it
has one (R128). -/
def State.goodReply (s : State) (station : Fin 24) (slot : LinkSlot) (f : Frame) (extra : List LinkChar) : State :=
  let s := s.putEntry station ((s.entry station).goodReply slot f extra)
  match s.engagedOn station with
  | some h => s.sample h f
  | none => s

/-! ### A miss -/

/-- A miss on the entry (R123), in a QUERY slot with its kind asked for again (R130). At the third consecutive miss the
station is LOST, zeroing is cleared and a ZERO still waiting is discarded (R133). -/
def StationEntry.missed (e : StationEntry) (slot : LinkSlot) : StationEntry :=
  let e := match slot.kind with
    | .query kind => e.askAgain kind
    | _ => e
  if e.presence = .present then
    if 3 ≤ e.missCount + 1 then
      { e with
        presence := .lost
        missCount := 3
        zeroing := false
        command := if e.command = some .zero then none else e.command }
    else { e with missCount := e.missCount + 1 }
  else e

/-- A miss at a station, as one event: a station that it makes LOST fails its engaged record (R44, R123). -/
def State.miss (s : State) (station : Fin 24) (slot : LinkSlot) : State :=
  let was := (s.entry station).presence
  let s := s.putEntry station ((s.entry station).missed slot)
  if was = .present && (s.entry station).presence = .lost then
    match s.engagedOn station with
    | some h => s.failRecord h .stationLost
    | none => s
  else s

/-! ### A slot ends -/

/-- The reply frame of a slot and the characters after it, if the reply is good (R120): its first character was in time,
its six characters are intact, and outside a QUERY slot no character follows them. -/
def LinkSlot.judge (slot : LinkSlot) (inTime : Bool) (chars : List LinkChar) : Option (Frame × List LinkChar) :=
  match replyFrame (chars.take 6), slot.kind, chars.drop 6 with
  | none, _, _ => none
  | some f, .query _, extra => if inTime then some (f, extra) else none
  | some f, _, [] => if inTime then some (f, []) else none
  | some _, _, _ :: _ => none

/-- The slot in progress ends with the characters received in it (R116, R120). The slot of a station outside the map, or
removed from it since the slot began, is neither a good reply nor a miss (R117, R120; log 11). -/
def State.endSlot (s : State) (inTime : Bool) (chars : List LinkChar) : State :=
  match s.scan.slot with
  | none => s
  | some slot =>
    let station := s.scan.station
    let s := { s with scan := { station := station + 1, slot := none } }
    if slot.kind = .silent || !s.mapped station then s
    else match slot.judge inTime chars with
      | some (f, extra) => s.goodReply station slot f extra
      | none => s.miss station slot

end Sys2Proof.Machine
end

