-- ==== Sys2Proof/Machine/Resets.lean ====
section
/-! DEFINITION. The power-on reset and the warm reset of every block (R20, R21, R51, R78, R93, R96, R135, R136, R141, R145,
R149, R159, R160, R168 to R175). -/

namespace Sys2Proof.Machine

/-- A line after a reset: its latch is 0 and its level NONE; the 50 ms of an input start (R136, R137). The level that the
berth puts on the pin is not the part's to reset. -/
def BerthLine.afterReset (b : BerthLine) (isInput : Bool) : BerthLine :=
  { b with latch := false, qualified := none, qualifying := isInput }

/-- A power-on reset (R20): every block takes its reset values. The pins keep the levels the berth puts on them, the data
pins what was last read; the queue of waiting commands and the count of R112's free value are the model's own. -/
def State.powerOnReset (s : State) : State :=
  { State.reset with
    lines := mapEntries (fun b => b.afterReset true) s.lines
    port := { Port.reset with dataOut := s.port.dataOut }
    holdEnds := s.holdEnds
    pending := s.pending }

/-- The state of a record after a warm reset (R21, R51). -/
def LineState.afterWarmReset : LineState → LineState
  | .paying | .makingFast | .hauling | .tending => .held
  | .armed => .prepared
  | .releasing | .rewinding => .fault
  | .prepared => .prepared
  | .held => .held
  | .stowed => .stowed
  | .fault => .fault

/-- Whether a warm reset moves a record of a state to HELD. -/
def LineState.heldByReset : LineState → Bool
  | .paying | .makingFast | .hauling | .tending => true
  | _ => false

/-- Whether a warm reset moves a record of a state to FAULT. -/
def LineState.faultedByReset : LineState → Bool
  | .releasing | .rewinding => true
  | _ => false

/-- A record after a warm reset (R21, R78, R93, R149, R159): identity, lengths, tension, T, R, S, totals and pending part
are kept. -/
def Record.afterWarmReset (r : Record) : Record :=
  { r with
    state := r.state.afterWarmReset
    deadline := .absent
    faultCause := if r.state.faultedByReset then some .reset else r.faultCause
    c := 0
    lean := none
    step := none
    tripDeferred := false
    slackRun := 0
    overload := false
    payLimit := false
    haulLimit := false
    proving := none
    notices := { NoticeSet.empty with resetHold := r.state.heldByReset } }

/-- A station table entry after a warm reset (R135). -/
def StationEntry.afterWarmReset (mapped : Bool) : StationEntry :=
  { StationEntry.reset with presence := if mapped then .present else .absent }

/-- A warm reset (R21, R96, R116, R135, R136, R141, R143, R160, R168 to R175). -/
def State.warmReset (s : State) : State :=
  { s with
    table := mapEntries (fun slot => { slot with record := slot.record.map Record.afterWarmReset }) s.table
    stations := Vector.ofFn fun st : Fin 24 => StationEntry.afterWarmReset (s.mapped st)
    scan := { station := 0, slot := none }
    groups := Vector.replicate 8 .idle
    lines := Vector.ofFn fun l : Fin 8 => (s.line l).afterReset ((s.lineConfig l).function ≠ .generalOut)
    softwareHold := false
    emergencyLatch := false
    noticesEnable := false
    port := { Port.reset with dataOut := s.port.dataOut } }

end Sys2Proof.Machine
end

