-- ==== Sys2Proof/Machine/Events.lean ====
section
/-! DEFINITION. The meanings of the rows that no write or read of the port brings about: the resets, the slots of the
station link, the expiries and the berth lines; and the passing of time while no command waits. -/

namespace Sys2Proof.Machine

/-- POWER_ON_RESET (R20). -/
def execPowerOnReset (s : State) : Host.Outcome State Fault Refusal := .next s.powerOnReset

/-- WARM_RESET (R21, R51). -/
def execWarmReset (s : State) : Host.Outcome State Fault Refusal := .next s.warmReset

/-- SLOT_START (R118). -/
def execSlotStart (s : State) : Host.Outcome State Fault Refusal := .next s.beginSlot

/-- SLOT_END (R120, R122, R123). -/
def execSlotEnd (inTime : Bool) (chars : List LinkChar) (s : State) : Host.Outcome State Fault Refusal :=
  .next (s.endSlot inTime chars)

/-- DEADLINE_EXPIRY (R28, R30). -/
def execDeadlineExpiry (expiry : DeadlineExpiry) (s : State) : Host.Outcome State Fault Refusal :=
  .next (s.expireDeadline expiry.handle expiry.elapsed)

/-- STAGE_DEADLINE_EXPIRY (R103). -/
def execStageDeadlineExpiry (expiry : StageExpiry) (s : State) : Host.Outcome State Fault Refusal :=
  .next (s.expireStage expiry.group expiry.elapsed)

/-- LINE_QUALIFIED (R137). -/
def execLineQualified (line : Fin 8) (s : State) : Host.Outcome State Fault Refusal := .next (s.qualify line)

/-- BERTH_LINE_PIN_CHANGE (R137). -/
def execBerthLinePinChange (line : Fin 8) (level : Level) (s : State) : Host.Outcome State Fault Refusal :=
  .next (s.changePin line level)

/-- 0.1 s passes while no command waits (R27, R96; log 5). -/
def State.tick (s : State) : State := s.passTime 1

end Sys2Proof.Machine
end

