-- ==== Sys2Proof/Machine/Reports.lean ====
section
/-! DEFINITION. The report bodies of section 11.7: the record snapshot, the notice reports, the station report and the
berth report. -/

namespace Sys2Proof.Machine

/-! ### Record snapshot -/

/-- The two bytes of a notice set (section 11.7). -/
def NoticeSet.bytes (n : NoticeSet) : List Byte :=
  [byteOfBits n.overload n.payLimit n.emergencyReleased n.faultEntered.isSome n.tendingReached n.stowed n.haulLimit
      n.resetHold,
    byteOfBits n.provingResult false false false false false false false]

/-- The code of a fault cause part, 0 for NONE (section 11.7). -/
def causeByte (cause : Option FaultCause) : Byte := byteOf ((cause.map FaultCause.code).getD 0)

/-- Condition and remaining time of a deadline (R178). -/
def Deadline.bytes : Deadline → List Byte
  | .absent => byteOf 0 :: halfOf 0
  | .running n => byteOf 1 :: halfOf n
  | .frozen n => byteOf 2 :: halfOf n

/-- The proving fields of a snapshot: phase, counter, offset and last result, all 0 when the part is absent (R14,
section 11.7). -/
def provingBytes : Option ProvingPart → List Byte
  | some p =>
    byteOf p.phase.code :: halfOf p.counter ++ signedHalfOf p.offset ++ byteOf p.lastSteps :: halfOf (p.lastInBand.getD 0xFFFF)
  | none => List.replicate 8 0

/-- The parts byte of a snapshot (section 11.7, offset 26). -/
def Record.partsByte (r : Record) : Byte :=
  byteOfBits r.pending.isSome r.step.isSome (r.step.any fun step => step.dir = .haul) r.proving.isSome r.tripDeferred
    r.overload r.payLimit r.haulLimit

/-- The record snapshot, 57 bytes (R14, R178, section 11.7). -/
def Record.snapshot (r : Record) (ref : Ref) : List Byte :=
  [ref.byte, byteOf r.station.val, r.callTag, byteOf r.group.val, byteOf r.role.code, byteOf r.state.code] ++
    halfOf r.lRun ++ halfOf r.lMin ++ halfOf r.lMax ++ halfOf r.len ++
    halfOf r.p ++ halfOf r.b ++ halfOf r.q ++ halfOf r.k ++ halfOf r.m ++ signedHalfOf r.effective ++
    [r.partsByte] ++
    halfOf ((r.pending.map PendingPart.p).getD 0) ++ halfOf ((r.pending.map PendingPart.b).getD 0) ++
    [byteOf r.c, byteOf ((r.lean.map Dir.code).getD 0), byteOf r.t, byteOf r.r, byteOf r.stepSize, byteOf r.slackRun] ++
    halfOf r.stepsPaid ++ halfOf r.stepsHauled ++
    [byteOf ((r.step.map StepInFlight.amount).getD 0)] ++ r.deadline.bytes ++ provingBytes r.proving ++
    [causeByte r.faultCause] ++ r.notices.bytes ++ [causeByte r.notices.faultEntered]

/-! ### Notice reports -/

/-- The fault cause of an alert report (R162). -/
def Record.alertCause (r : Record) : Option FaultCause :=
  match r.notices.faultEntered with
  | some cause => some cause
  | none => if r.state = .fault then r.faultCause else none

/-- An alert report, extent SHORT, 7 bytes (R162, section 11.7). DESIGN CHOICE (log 16): bits 7 to 4 of the alert-kinds
byte, to which section 11.7 gives no meaning, are 0. -/
def Record.alertReport (r : Record) (ref : Ref) : List Byte :=
  [byteOf 1, ref.byte,
    byteOfBits r.notices.overload r.notices.payLimit r.notices.emergencyReleased r.notices.faultEntered.isSome
      false false false false,
    byteOf r.state.code] ++ halfOf r.m ++ [causeByte r.alertCause]

/-- A notice report, extent FULL, 60 bytes: the notice-class kinds and the snapshot (R163). -/
def Record.noticeReport (r : Record) (ref : Ref) : List Byte :=
  byteOf 2 :: r.notices.notices.bytes ++ r.snapshot ref

/-! ### Station report -/

/-- The last reply of an entry, 5 bytes, 0 when there is none. -/
def lastReplyBytes : Option Frame → List Byte
  | some f => f.flags :: halfOf f.tension ++ halfOf f.length
  | none => List.replicate 5 0

/-- The station report of STATION QUERY, 12 bytes (R121, section 11.7), with the pending kind that the request leaves
(R129). DESIGN CHOICE (log 16): bit 7 of byte 1 and bits 7 and 3 to 2 of byte 8, to which section 11.7 gives no meaning,
are 0. -/
def StationEntry.report (e : StationEntry) (station : Fin 24) (pendingKind : Option DiagKind) : List Byte :=
  [byteOf station.val,
    0#1 ++ BitVec.ofBool e.lastReply.isSome ++ BitVec.ofBool e.zeroing ++ BitVec.ofBool e.toggle ++
      BitVec.ofNat 2 e.missCount ++ BitVec.ofNat 2 e.presence.code,
    byteOf ((e.command.map Command.code).getD 0)] ++
  lastReplyBytes e.lastReply ++
  [0#1 ++ BitVec.ofNat 3 ((e.diagKind.map DiagKind.code).getD 0) ++ 0#2 ++ BitVec.ofNat 2 e.diagState.code] ++
  halfBytes e.diagValue ++ [byteOf ((pendingKind.map DiagKind.code).getD 0)]

/-! ### Berth report -/

/-- The byte of one line (section 11.7): function, latch, qualified level and polarity; the qualified level of a GENERAL
OUT line shows as NONE (R140). DESIGN CHOICE (log 16): bit 6, to which section 11.7 gives no meaning, is 0. -/
def State.lineByte (s : State) (l : Fin 8) : Byte :=
  let c := s.lineConfig l
  let level := if c.function = .generalOut then none else (s.line l).qualified
  BitVec.ofBool c.activeLow ++ 0#1 ++ BitVec.ofNat 2 ((level.map Level.code).getD 0) ++
    BitVec.ofBool (s.line l).latch ++ BitVec.ofNat 3 c.function.code

/-- The four bytes of one group: stage and condition, member count, remaining stage time (R177, section 11.7). DESIGN CHOICE
(log 16): bits 6 to 2 of the stage byte, to which section 11.7 gives no meaning, are 0. -/
def GroupEntry.bytes : GroupEntry → List Byte
  | .idle => List.replicate 4 0
  | .running stage members remaining => [byteOf stage.code, byteOf members.length] ++ halfOf remaining
  | .waiting stage => [1#1 ++ 0#5 ++ BitVec.ofNat 2 stage.code, 0, 0, 0]

/-- The berth report of READ BERTH, 42 bytes (R140, R177, section 11.7). -/
def State.berthReport (s : State) : List Byte :=
  (List.finRange 8).map s.lineByte ++
    [byteOfBits (s.condition .contact) (s.condition .hold) (s.condition .ramp) (s.condition .emergency) s.softwareHold
        s.berthHold s.emergencyLatch s.configured,
      byteOf s.berthState.code] ++
    (List.finRange 8).flatMap fun g => (s.groupEntry g).bytes

end Sys2Proof.Machine
end

