-- ==== Sys2Proof/Machine/Targets.lean ====
section
/-! DEFINITION. What every request shares: its answer, the check of a reference, and the resolution of targets with the
counts of records acted on and skipped (R6, R80 to R82, R173). -/

namespace Sys2Proof.Machine

/-- What taking a request leaves: the state, and the answer of the block that owns it (R171). -/
abbrev Taken := State × Answer

/-- A refusal: nothing changes, and the reply has no body (R173). -/
def refuse (s : State) (result : Result) : Taken := (s, { result := result, body := [] })

/-- DONE with a reply body. -/
def doneWith (s : State) (body : List Byte) : Taken := (s, { result := .done, body := body })

/-- DONE with an acted and a skipped count (R173). -/
def doneCounts (s : State) (acted skipped : Nat) : Taken := doneWith s [byteOf acted, byteOf skipped]

/-- A request that names one record by a bare reference byte: checked as R6 states, then handed the record. -/
def withReference (s : State) (ref : Byte) (k : Fin 32 → Record → Taken) : Taken :=
  if s.names (Ref.ofByte ref) then
    match s.record? (Ref.ofByte ref).handle with
    | some r => k (Ref.ofByte ref).handle r
    | none => refuse s .badRef
  else refuse s .badRef

/-- What a request does with one record: the refusal that its rule gives, or its effect. -/
structure RecordAction where
  /-- The first check that the record fails, if one does. -/
  refusal : State → Record → Option Result
  /-- The effect on a record that passes. -/
  act : State → Fin 32 → State

/-- One member of a group or berth target is weighed against the state that the members before it left: acted on, or
skipped (R82). The pair is the count of acted and of skipped members. -/
def RecordAction.weigh (a : RecordAction) (acc : State × Nat × Nat) (h : Fin 32) : State × Nat × Nat :=
  match acc.1.record? h with
  | some r =>
    match a.refusal acc.1 r with
    | none => (a.act acc.1 h, acc.2.1 + 1, acc.2.2)
    | some _ => (acc.1, acc.2.1, acc.2.2 + 1)
  | none => acc

/-- A request on the members of a group or berth target, in ascending handle order (R82). -/
def RecordAction.onMembers (a : RecordAction) (s : State) (members : List (Fin 32)) : Taken :=
  let out := members.foldl a.weigh (s, 0, 0)
  doneCounts out.1 out.2.1 out.2.2

/-- A request on a target (R80 to R82): the target is checked, then a reference, then what refuses the request whole, and
then the records are weighed one by one. -/
def RecordAction.onTarget (a : RecordAction) (whole : State → Option Result) (s : State) (kind value : Byte) : Taken :=
  match Target.ofBytes kind value with
  | .error result => refuse s result
  | .ok (.reference _) =>
    withReference s value fun h r =>
      match whole s with
      | some result => refuse s result
      | none =>
        match a.refusal s r with
        | some result => refuse s result
        | none => doneCounts (a.act s h) 1 0
  | .ok (.group g) =>
    match whole s with
    | some result => refuse s result
    | none => a.onMembers s (s.handlesWith fun r => r.group = g)
  | .ok .berth =>
    match whole s with
    | some result => refuse s result
    | none => a.onMembers s (s.handlesWith fun _ => true)

/-- The refusal of a request permitted in some states only. -/
def unlessState (permitted : LineState → Bool) : State → Record → Option Result :=
  fun _ r => if permitted r.state then none else some .badState

end Sys2Proof.Machine
end

