-- ==== Sys2Proof/Machine/BerthRequests.lean ====
section
/-! DEFINITION. The requests of the Berth Line Inputs: CONFIGURE BERTH, READ BERTH, SET OUTPUTS and ACK EMERGENCY (R139,
R140, R144, R146), with the map change of R117. -/

namespace Sys2Proof.Machine

/-! ### CONFIGURE BERTH -/

/-- Whether bits 6..3 of a line byte are 0 (R146). -/
def lineByteFormed (b : Byte) : Bool := b.extractLsb' 3 4 = 0

/-- The function and polarity that a line byte carries, if its code names a function (R146). -/
def LineConfig.ofByte (b : Byte) : Option LineConfig :=
  (LineFunction.ofCode (b.extractLsb' 0 3).toNat).map fun f => { function := f, activeLow := b.getLsbD 7 }

/-- Whether a timeout is 1 to 6000 (R146). -/
def timeoutInRange (v : Half) : Bool := 1 ≤ v.toNat && v.toNat ≤ 6000

end Sys2Proof.Machine

namespace Sys2Proof

open Machine

/-- Whether every timeout of a body is in range (R146). -/
def BerthBody.timeoutsInRange (body : BerthBody) : Bool :=
  timeoutInRange body.pay && timeoutInRange body.fast && timeoutInRange body.haul && timeoutInRange body.clear &&
    timeoutInRange body.stall && timeoutInRange body.stage

/-- The function and polarity of a line under a body; a code without a function, which the checks rule out, reads as
GENERAL IN. -/
def BerthBody.lineConfig (body : BerthBody) (l : Fin 8) : LineConfig :=
  (LineConfig.ofByte body.lines[l]).getD { function := .generalIn, activeLow := false }

/-- The berth configuration that a body writes (R22, R146). -/
def BerthBody.config (body : BerthBody) : BerthConfig where
  timeouts :=
    { pay := body.pay.toNat, fast := body.fast.toNat, haul := body.haul.toNat, clear := body.clear.toNat,
      stall := body.stall.toNat, stage := body.stage.toNat }
  map := body.map
  lines := #v[body.lineConfig 0, body.lineConfig 1, body.lineConfig 2, body.lineConfig 3, body.lineConfig 4,
    body.lineConfig 5, body.lineConfig 6, body.lineConfig 7]

end Sys2Proof

namespace Sys2Proof.Machine

/-- The checks of CONFIGURE BERTH, in order (R146). -/
def configureRefusal (body : BerthBody) (s : State) : Option Result :=
  if !body.lines.toList.all lineByteFormed then some .badRequest
  else if (List.finRange 32).any fun h => s.holds h fun r => r.state.engaged then some .badState
  else if !body.timeoutsInRange then some .range
  else if !body.lines.toList.all fun b => (LineConfig.ofByte b).isSome then some .range
  else none

/-- A line becomes, or ceases to be, an output (R137): its qualified level is NONE; it is qualified afresh as an input. The
latch is kept (R139). -/
def BerthLine.reconfigured (b : BerthLine) (wasInput isInput : Bool) : BerthLine :=
  if wasInput = isInput then b else { b with qualified := none, qualifying := isInput }

/-- The entry of a station removed from the map (R117). -/
def StationEntry.removed (e : StationEntry) : StationEntry :=
  { StationEntry.reset with lastReply := e.lastReply, toggle := e.toggle }

/-- The stations of the old map that the new one does not hold have their entries set (R117). -/
def State.removeStations (s : State) (old : BitVec 24) : State :=
  (List.finRange 24).foldl
    (fun s (st : Fin 24) => if old.getLsbD st && !s.mapped st then s.putEntry st (s.entry st).removed else s) s

/-- Every line takes its new function (R137). -/
def State.reconfigureLines (s : State) (old : Vector LineConfig 8) : State :=
  (List.finRange 8).foldl
    (fun s (l : Fin 8) => s.putLine l ((s.line l).reconfigured (old[l].function ≠ .generalOut) (s.isInput l))) s

/-- The effect of a CONFIGURE BERTH that passes (R116, R117, R137, R138, R146): as one event the configuration is written,
removed stations and changed lines are dealt with, the configured flag is set, the scan begins if it was clear, and each
condition change that results is taken. -/
def configureEffect (body : BerthBody) (s : State) : State :=
  let was := s.conditions
  let s' := { s with config := body.config, configured := true }
  let s' := s'.removeStations s.config.map
  let s' := s'.reconfigureLines s.config.lines
  let s' := if s.configured then s' else { s' with scan := { station := 0, slot := none } }
  s'.takeConditionChanges was

/-- CONFIGURE BERTH (R146). -/
def takeConfigureBerth (body : BerthBody) (s : State) : Taken :=
  match configureRefusal body s with
  | some result => refuse s result
  | none => doneWith (configureEffect body s) []

/-! ### READ BERTH, SET OUTPUTS and ACK EMERGENCY -/

/-- READ BERTH (R140). -/
def takeReadBerth (s : State) : Taken := doneWith s s.berthReport

/-- Every output latch takes its bit of the latch byte (R139). -/
def State.writeLatches (s : State) (latches : Byte) : State :=
  (List.finRange 8).foldl (fun s (l : Fin 8) => s.putLine l { s.line l with latch := latches.getLsbD l }) s

/-- SET OUTPUTS (R139). -/
def takeSetOutputs (latches : Byte) (s : State) : Taken := doneWith (s.writeLatches latches) []

/-- ACK EMERGENCY (R144). -/
def takeAckEmergency (s : State) : Taken :=
  if s.condition .emergency then refuse s .interlock else doneWith { s with emergencyLatch := false } []

end Sys2Proof.Machine
end

