-- ==== Sys2Proof/Machine/NoticeRequests.lean ====
section
/-! DEFINITION. The request of the Notice Selector: NEXT NOTICE (R161 to R163). -/

namespace Sys2Proof.Machine

/-- The record of lowest handle that satisfies a test, with its handle. -/
def State.lowestWith (s : State) (test : Record → Bool) : Option (Fin 32 × Record) :=
  (List.finRange 32).findSome? fun h => ((s.record? h).filter test).map fun r => (h, r)

/-- NEXT NOTICE (R161): an alert report (R162), a notice report while the notices enable is set (R163), or extent NONE. The
kinds reported are removed. -/
def takeNextNotice (s : State) : Taken :=
  match s.lowestWith fun r => r.notices.anyAlert with
  | some (h, r) =>
    doneWith (s.putRecord h { r with notices := r.notices.notices }) (r.alertReport (s.refOf h))
  | none =>
    match (if s.noticesEnable then s.lowestWith fun r => r.notices.anyNotice else none) with
    | some (h, r) =>
      doneWith (s.putRecord h { r with notices := r.notices.alerts }) (r.noticeReport (s.refOf h))
    | none => doneWith s [byteOf 0]

end Sys2Proof.Machine
end

