-- ==== Sys2Proof/Machine/ProvingRequests.lean ====
section
/-! DEFINITION. The requests of the Proving Unit: PROVE START, PROVE RELEASE and PROVE STOP (R150, R153, R156). -/

namespace Sys2Proof.Machine

/-- The proving part that PROVE START creates, its settings clamped (R150). -/
def newProving (push : Byte) (settle : Half) (increment : Byte) (raises dwells : Bool) : ProvingPart where
  pushCount := clampNat 1 63 push.toNat
  settleCount := clampNat 8 1000 settle.toNat
  increment := clampNat 1 100 increment.toNat
  raises := raises
  dwells := dwells
  phase := .push
  counter := 0
  offset := 0
  lastSteps := 0
  lastInBand := none

/-- A code of 0 or 1 as its place in the table of codes (section 11.6): `none` for a higher code. -/
def oneBitCode (b : Byte) : Option Bool :=
  match b.toNat with
  | 0 => some false
  | 1 => some true
  | _ => none

/-- PROVE START (R150). Direction 0 is RAISE. -/
def takeProveStart (ref push : Byte) (settle : Half) (increment direction dwell : Byte) (s : State) : Taken :=
  withReference s ref fun h r =>
    match oneBitCode direction, oneBitCode dwell with
    | some lowers, some dwells =>
      if r.state ≠ .tending then refuse s .badState
      else if r.proving.isSome then refuse s .badState
      else doneWith (s.putRecord h { r with proving := some (newProving push settle increment (!lowers) dwells) }) []
    | _, _ => refuse s .badRequest

/-- PROVE RELEASE (R153). -/
def takeProveRelease (ref : Byte) (s : State) : Taken :=
  withReference s ref fun h r =>
    match r.proving with
    | some p =>
      if p.phase = .dwell then doneWith (s.putRecord h { r with proving := some p.settling }) []
      else refuse s .badState
    | none => refuse s .badState

/-- PROVE STOP (R156). -/
def takeProveStop (ref : Byte) (s : State) : Taken :=
  withReference s ref fun h r =>
    if r.proving.isSome then doneWith (s.putRecord h { r with proving := none }) [] else refuse s .badState

end Sys2Proof.Machine
end

