-- ==== Sys2Proof/Machine/ReleaseRequests.lean ====
section
/-! DEFINITION. The request of the Release Sequencer: RELEASE of one line, of a group and of the berth (R98 to R105). -/

namespace Sys2Proof.Machine

/-- The stages of a staged release, in order (R96). -/
def allStages : List Stage := [.breast, .ends, .spring]

/-- The number of references in a group's member list. -/
def GroupEntry.memberCount : GroupEntry → Nat
  | .running _ members _ => members.length
  | _ => 0

/-- RELEASE of one line (R98). -/
def releaseOne (s : State) (ref : Byte) : Taken :=
  withReference s ref fun h r =>
    if !r.state.releasable then refuse s .badState
    else if s.interlocked then refuse s .interlock
    else doneCounts (s.enterReleasing h) 1 0

/-- RELEASE of a group (R100): its first stage with members starts. -/
def releaseGroup (s : State) (g : Fin 8) : Taken :=
  if s.interlocked then refuse s .interlock
  else if s.groupEntry g ≠ .idle then refuse s .badState
  else
    let s' := State.startStage g allStages s
    let acted := (s'.groupEntry g).memberCount
    doneCounts s' acted ((s.handlesWith fun r => r.group = g).length - acted)

/-- One group of a berth RELEASE, with the count of members acted on so far (R105): a group whose stage is not NONE is
passed over. -/
def releaseNextGroup (acc : State × Nat) (g : Fin 8) : State × Nat :=
  if acc.1.groupEntry g ≠ .idle then acc
  else
    let s' := State.startStage g allStages acc.1
    (s', acc.2 + (s'.groupEntry g).memberCount)

/-- RELEASE of the berth (R105). -/
def releaseBerth (s : State) : Taken :=
  if s.interlocked then refuse s .interlock
  else
    let out := (List.finRange 8).foldl releaseNextGroup (s, 0)
    doneCounts out.1 out.2 ((s.handlesWith fun _ => true).length - out.2)

/-- RELEASE (R80, R98, R100, R105). -/
def takeRelease (kind value : Byte) (s : State) : Taken :=
  match Target.ofBytes kind value with
  | .error result => refuse s result
  | .ok (.reference _) => releaseOne s value
  | .ok (.group g) => releaseGroup s g
  | .ok .berth => releaseBerth s

end Sys2Proof.Machine
end

