-- ==== Sys2Proof/Machine/SettingsRequests.lean ====
section
/-! DEFINITION. The requests of the Settings Unit: SET and APPLY (R83 to R87). -/

namespace Sys2Proof.Machine

/-- The states in which SET and APPLY are permitted (R83, R84). -/
def LineState.settable : LineState → Bool
  | .releasing | .rewinding | .stowed => false
  | _ => true

/-- SET on one record: the pending part is written, or replaced whole (R83). -/
def setAction (p b : Nat) : RecordAction where
  refusal := unlessState LineState.settable
  act := fun s h => s.modifyRecord h fun r => { r with pending := some { p := p, b := b } }

/-- SET (R83): a value above 8191 refuses the request whole. -/
def takeSet (kind value : Byte) (p b : Half) (s : State) : Taken :=
  (setAction p.toNat b.toNat).onTarget
    (fun _ => if 8191 < p.toNat || 8191 < b.toNat then some .range else none) s kind value

/-- APPLY on a record with a pending part (R84 to R87). -/
def applyRecord (s : State) (h : Fin 32) : State :=
  s.withRecord h fun r =>
    match r.pending with
    | none => s
    | some part =>
      let applied := r.applied part
      match r.state with
      | .tending => s.putRecord h { applied.restarted with tripDeferred := false }
      | .hauling =>
        if s.paused r then s.putRecord h applied
        else (s.putRecord h applied).giveCommand r.station (.haulUntil (applied.p - applied.b))
      | _ => s.putRecord h applied

/-- APPLY on one record: a record without a pending part is refused like one in another state (R84). -/
def applyAction : RecordAction where
  refusal := fun _ r => if r.state.settable && r.pending.isSome then none else some .badState
  act := applyRecord

/-- APPLY (R84). -/
def takeApply (kind value : Byte) (s : State) : Taken := applyAction.onTarget (fun _ => none) s kind value

end Sys2Proof.Machine
end

