-- ==== Sys2Proof/Machine/StateRequests.lean ====
section
/-! DEFINITION. The requests of the Line State Unit: ARM, DISARM, HOLD LINE, RESUME and CLEAR FAULT (R31 to R34, R40,
R41, R46). -/

namespace Sys2Proof.Machine

/-- The checks of ARM on one record after the reference and configuration checks (R31). -/
def armRefusal (s : State) (r : Record) : Option Result :=
  if r.state ≠ .prepared then some .badState
  else if (s.entry r.station).presence ≠ .present then some .stationAbsent
  else if (s.engagedOn r.station).isSome then some .stationTaken
  else if (s.entry r.station).zeroing then some .busy
  else none

/-- An ARM that passes: ARMED, or straight on to PAYING while contact is active (R32). -/
def armRecord (s : State) (h : Fin 32) : State :=
  let s := s.modifyRecord h fun r => { r with state := .armed, deadline := .absent }
  if s.condition .contact then s.enterPaying h else s

/-- ARM on one record. -/
def armAction : RecordAction where
  refusal := armRefusal
  act := armRecord

/-- The refusal of ARM whole (R31, R33). -/
def unlessConfigured (s : State) : Option Result := if s.configured then none else some .notConfigured

/-- ARM (R31 to R33). -/
def takeArm (kind value : Byte) (s : State) : Taken := armAction.onTarget unlessConfigured s kind value

/-- DISARM on one record (R34). -/
def disarmAction : RecordAction where
  refusal := unlessState fun state => state = .armed
  act := fun s h => s.modifyRecord h fun r => { r with state := .prepared, deadline := .absent }

/-- DISARM (R34). -/
def takeDisarm (kind value : Byte) (s : State) : Taken := disarmAction.onTarget (fun _ => none) s kind value

/-- The record part of the entry to HELD by HOLD LINE (R40): a step in flight is kept. -/
def Record.heldByRequest (r : Record) : Record :=
  { r with state := .held, tripDeferred := false, proving := none, deadline := .absent }

/-- HOLD LINE on one record (R40). -/
def holdLineAction : RecordAction where
  refusal := unlessState fun state => state = .tending
  act := fun s h => s.modifyRecord h Record.heldByRequest

/-- HOLD LINE (R40). -/
def takeHoldLine (kind value : Byte) (s : State) : Taken := holdLineAction.onTarget (fun _ => none) s kind value

/-- The record part of the entry to TENDING by RESUME (R41, R62). -/
def Record.resumed (r : Record) : Record := { r.restarted with state := .tending, slackRun := 0, deadline := .absent }

/-- RESUME on one record (R41). -/
def resumeAction : RecordAction where
  refusal := fun s r =>
    if r.state = .held && (s.entry r.station).presence = .present && (s.entry r.station).lastShows Frame.eyeFast then none
    else some .badState
  act := fun s h => s.modifyRecord h Record.resumed

/-- RESUME (R41). -/
def takeResume (kind value : Byte) (s : State) : Taken := resumeAction.onTarget (fun _ => none) s kind value

/-- CLEAR FAULT (R46): to HELD or to REWINDING by the station's last reply. -/
def takeClearFault (ref : Byte) (s : State) : Taken :=
  withReference s ref fun h r =>
    let e := s.entry r.station
    if r.state ≠ .fault then refuse s .badState
    else if e.presence ≠ .present then refuse s .badState
    else if e.lastShows Frame.eyeFast && !e.lastShows Frame.stationFault then
      doneWith (s.putRecord h { r with state := .held, faultCause := none, deadline := .absent }) []
    else if e.lastShows Frame.eyeClear then doneWith (s.enterRewinding h) []
    else refuse s .badState

end Sys2Proof.Machine
end

