-- ==== Sys2Proof/Machine/StationRequests.lean ====
section
/-! DEFINITION. The requests of the Station Link Controller: STATION QUERY and ZERO (R129, R132). -/

namespace Sys2Proof.Machine

/-- The pending kind that a STATION QUERY leaves (R129). -/
def State.kindAfterQuery (s : State) (station : Fin 24) (kind : Option DiagKind) : Option DiagKind :=
  match kind with
  | some k => if s.mapped station then some k else (s.entry station).pendingKind
  | none => (s.entry station).pendingKind

/-- STATION QUERY (R129). Which refusal a station above 23 with a kind above 4 draws is a free value (log 9). -/
def takeStationQuery (station kind : Byte) (s : State) : Taken :=
  match finOf 24 station.toNat, DiagKind.ofByte kind with
  | some st, some k =>
    let e := s.entry st
    let left := s.kindAfterQuery st k
    doneWith (s.putEntry st { e with pendingKind := left }) (e.report st left)
  | none, some _ => refuse s .range
  | some _, none => refuse s .badRequest
  | none, none => if Config.stationRefusedFirst station kind then refuse s .range else refuse s .badRequest

/-- ZERO (R132). -/
def takeZero (station : Byte) (s : State) : Taken :=
  match finOf 24 station.toNat with
  | none => refuse s .range
  | some st =>
    let e := s.entry st
    if !s.configured then refuse s .notConfigured
    else if e.presence ≠ .present then refuse s .stationAbsent
    else if e.zeroing then refuse s .busy
    else if (s.engagedOn st).isSome then refuse s .badState
    else if e.command = some .free || e.lastShows Frame.moving then refuse s .busy
    else doneWith ((s.putEntry st { e with zeroing := true }).giveCommand st .zero) []

end Sys2Proof.Machine
end

