-- ==== Sys2Proof/Machine/TableRequests.lean ====
section
/-! DEFINITION. The requests of the Line Table: ASSIGN, FIND, READ RECORD, RETIRE and ABANDON (R8 to R18). -/

namespace Sys2Proof.Machine

/-! ### ASSIGN -/

/-- The identity values of an ASSIGN that passes the RANGE checks (R8). -/
structure AssignPlace where
  station : Fin 24
  group : Fin 8
  role : Role
deriving DecidableEq, Repr

end Sys2Proof.Machine

namespace Sys2Proof

open Machine

/-- The RANGE checks of ASSIGN (R8): `none` if any fails. -/
def AssignBody.place (a : AssignBody) : Option AssignPlace :=
  match finOf 24 a.station.toNat, finOf 8 a.group.toNat, Role.ofByte a.role with
  | some station, some group, some role =>
    if a.lMin.toNat < a.lMax.toNat && a.lMax.toNat ≤ 12000 then
      some { station := station, group := group, role := role }
    else none
  | _, _, _ => none

end Sys2Proof

namespace Sys2Proof.Machine

/-- The non-FREE records that name a station. -/
def State.recordsOn (s : State) (station : Fin 24) : List (Fin 32) := s.handlesWith fun r => r.station = station

/-- The station rule of ASSIGN (R9). -/
def State.stationTaken (s : State) (station : Fin 24) (callTag : Byte) : Bool :=
  2 ≤ (s.recordsOn station).length ||
    (List.finRange 32).any fun h => s.holds h fun r => r.station = station && r.callTag = callTag

/-- The lowest-numbered FREE slot (R10). -/
def State.lowestFree (s : State) : Option (Fin 32) := (List.finRange 32).find? fun h => (s.record? h).isNone

end Sys2Proof.Machine

namespace Sys2Proof

open Machine

/-- P of a new record (R90, step 1). -/
def AssignBody.clampedP (a : AssignBody) : Nat := clampNat 10 7000 a.p.toNat

/-- B of a new record (R90, step 2). -/
def AssignBody.clampedB (a : AssignBody) : Nat := clampNat 1 (min 500 (a.clampedP / 4)) a.b.toNat

/-- Q of a new record (R90, step 3). -/
def AssignBody.clampedQ (a : AssignBody) : Nat := clampNat (a.clampedP + a.clampedB + 1) 8000 a.q.toNat

/-- K of a new record (R90, step 4). -/
def AssignBody.clampedK (a : AssignBody) : Nat := min (a.clampedP - a.clampedB - 1) a.k.toNat

/-- T of a new record (R91). -/
def AssignBody.clampedT (a : AssignBody) : Nat := clampNat 2 255 a.t.toNat

/-- R of a new record (R91). -/
def AssignBody.clampedR (a : AssignBody) : Nat := min (a.clampedT - 1) a.r.toNat

/-- The record that ASSIGN creates (R11, R90, R91). -/
def AssignBody.newRecord (a : AssignBody) (place : AssignPlace) : Record where
  station := place.station
  callTag := a.callTag
  group := place.group
  role := place.role
  state := .prepared
  lRun := clampNat a.lMin.toNat a.lMax.toNat a.lRun.toNat
  lMin := a.lMin.toNat
  lMax := a.lMax.toNat
  len := 0
  p := a.clampedP
  b := a.clampedB
  q := a.clampedQ
  k := a.clampedK
  m := 0
  c := 0
  lean := none
  t := a.clampedT
  r := a.clampedR
  stepSize := clampNat 5 200 a.s.toNat
  tripDeferred := false
  slackRun := 0
  overload := false
  payLimit := false
  haulLimit := false
  stepsPaid := 0
  stepsHauled := 0
  deadline := .absent
  pending := none
  step := none
  proving := none
  faultCause := none
  notices := .empty

end Sys2Proof

namespace Sys2Proof.Machine

/-- ASSIGN (R8 to R11): the first check that fails gives the result; one that passes takes the lowest FREE slot and
answers with the new record's reference. -/
def takeAssign (a : AssignBody) (s : State) : Taken :=
  match a.place with
  | none => refuse s .range
  | some place =>
    if s.stationTaken place.station a.callTag then refuse s .stationTaken
    else match s.lowestFree with
      | none => refuse s .tableFull
      | some h => doneWith (s.putRecord h (a.newRecord place)) [(s.refOf h).byte]

/-! ### FIND and READ RECORD -/

/-- A FIND reply (R13): the key, the count, and the references in ascending handle order. -/
def findReply (s : State) (kind value : Byte) (test : Record → Bool) : Taken :=
  doneWith s ([kind, value, byteOf (s.handlesWith test).length] ++ (s.handlesWith test).map fun h => (s.refOf h).byte)

/-- FIND (R12). -/
def takeFind (kind value : Byte) (s : State) : Taken :=
  match kind.toNat with
  | 0 => if value.toNat < 24 then findReply s kind value fun r => r.station.val = value.toNat else refuse s .range
  | 1 => findReply s kind value fun r => r.callTag = value
  | 2 => if value.toNat < 8 then findReply s kind value fun r => r.group.val = value.toNat else refuse s .range
  | _ => refuse s .badRequest

/-- READ RECORD (R14). -/
def takeReadRecord (ref : Byte) (s : State) : Taken :=
  withReference s ref fun h r => doneWith s (r.snapshot (s.refOf h))

/-! ### RETIRE and ABANDON -/

/-- RETIRE on one record: freed in STOWED or PREPARED (R15, R17). -/
def retireAction : RecordAction where
  refusal := unlessState fun state => state = .stowed || state = .prepared
  act := State.freeSlot

/-- RETIRE (R15, R16): a BERTH target is refused with BAD REQUEST. -/
def takeRetire (kind value : Byte) (s : State) : Taken :=
  match Target.ofBytes kind value with
  | .ok .berth => refuse s .badRequest
  | _ => retireAction.onTarget (fun _ => none) s kind value

/-- ABANDON (R17, R18, R113): STOP-BRAKE is given if the record is engaged, the slot becomes FREE, and a member of a
running stage is removed from its list. -/
def takeAbandon (ref : Byte) (s : State) : Taken :=
  withReference s ref fun h r =>
    let given := if r.state.engaged then s.giveCommand r.station .stopBrake else s
    doneCounts ((given.freeSlot h).removeMember r.group (s.refOf h)) 1 0

end Sys2Proof.Machine
end

