-- ==== Sys2Proof/Machine/Port.lean ====
section
/-! DEFINITION. The Berth Computer Port: the request mailbox and the taking of a completed request, the reply mailbox, the
abort, and the urgent code (R168 to R176). -/

namespace Sys2Proof.Machine

/-! ### Taking a request -/

/-- A request with a good header is handed to the block that owns it (R171, section 11.6). -/
def runRequest (code : RequestCode) (body : List Byte) (s : State) : Taken :=
  match code with
  | .configureBerth => takeConfigureBerth (BerthBody.ofBytes body) s
  | .assign => takeAssign (AssignBody.ofBytes body) s
  | .arm => takeArm (byteAt body 0) (byteAt body 1) s
  | .disarm => takeDisarm (byteAt body 0) (byteAt body 1) s
  | .set => takeSet (byteAt body 0) (byteAt body 1) (halfAt body 2) (halfAt body 4) s
  | .apply => takeApply (byteAt body 0) (byteAt body 1) s
  | .holdLine => takeHoldLine (byteAt body 0) (byteAt body 1) s
  | .resume => takeResume (byteAt body 0) (byteAt body 1) s
  | .release => takeRelease (byteAt body 0) (byteAt body 1) s
  | .clearFault => takeClearFault (byteAt body 0) s
  | .retire => takeRetire (byteAt body 0) (byteAt body 1) s
  | .abandon => takeAbandon (byteAt body 0) s
  | .readRecord => takeReadRecord (byteAt body 0) s
  | .find => takeFind (byteAt body 0) (byteAt body 1) s
  | .nextNotice => takeNextNotice s
  | .ackEmergency => takeAckEmergency s
  | .stationQuery => takeStationQuery (byteAt body 0) (byteAt body 1) s
  | .zero => takeZero (byteAt body 0) s
  | .proveStart =>
    takeProveStart (byteAt body 0) (byteAt body 1) (halfAt body 2) (byteAt body 4) (byteAt body 5) (byteAt body 6) s
  | .proveRelease => takeProveRelease (byteAt body 0) s
  | .proveStop => takeProveStop (byteAt body 0) s
  | .readBerth => takeReadBerth s
  | .setOutputs => takeSetOutputs (byteAt body 0) s

/-- The answer to a completed request: BAD REQUEST to a header that names no request or has another length than the fixed
one, without reaching another block (R171). -/
def answerRequest (code : Byte) (body : List Byte) (s : State) : Taken :=
  match headerRequest code body.length with
  | some request => runRequest request body s
  | none => refuse s .badRequest

/-- The port after a completed request is taken: it executes until its reply is made at its end, and REQUEST OPEN is clear
meanwhile (R170, R171). -/
def Port.executes (p : Port) (code : Byte) (answer : Answer) : Port :=
  { p with mailbox := [], executing := some { code := code, answer := answer, aborted := false } }

/-- A completed request is taken: its whole effect is one event (R171). -/
def State.takeRequest (s : State) (code : Byte) (body : List Byte) : State :=
  let taken := answerRequest code body s
  { taken.1 with port := taken.1.port.executes code taken.2 }

/-! ### The request mailbox -/

/-- The bytes of a reply message (section 11.7, reply header). -/
def replyBytes (code : Byte) (answer : Answer) : List Byte :=
  code :: byteOf answer.result.code :: byteOf answer.body.length :: answer.body

/-- The first byte of a new request ends READ OUT (R172). -/
def Port.openForByte (p : Port) : Port := { p with reply := .empty }

/-- What the mailbox does with its bytes, the newest included (R170): a body length above 30 is refused at once; the last
body byte completes the request; anything else waits for more. -/
def State.fillMailbox (s : State) (bytes : List Byte) : State :=
  match bytes with
  | code :: length :: body =>
    if 30 < length.toNat then
      { s with port := { s.port with
        mailbox := [], reply := .ready (replyBytes code { result := .badRequest, body := [] }) 0 } }
    else if body.length = length.toNat then s.takeRequest code body
    else { s with port := { s.port with mailbox := bytes } }
  | _ => { s with port := { s.port with mailbox := bytes } }

/-- One byte is written to location 0 (R170): discarded with overrun while REQUEST OPEN is clear. -/
def State.writeByte (s : State) (b : Byte) : State :=
  if s.port.requestOpen then
    { s with port := s.port.openForByte }.fillMailbox (s.port.mailbox ++ [b])
  else { s with port := { s.port with overrun := true } }

/-- The bytes of a message that the berth computer has still to write: those after the part that stands in the mailbox
already, or all of them if the mailbox holds anything else (log 3). -/
def remainingBytes (message mailbox : List Byte) : List Byte :=
  if mailbox.isPrefixOf message && mailbox.length < message.length then message.drop mailbox.length else message

/-- A request message is written to location 0, byte by byte (R170; log 3). -/
def State.sendMessage (s : State) (code : Byte) (body : List Byte) : State :=
  (remainingBytes (messageBytes code body) s.port.mailbox).foldl State.writeByte s

/-- A request is written and so taken, if the mailbox is open. -/
def sendRequest (code : RequestCode) (body : List Byte) (s : State) : Host.Outcome State Fault Refusal :=
  .next (s.sendMessage code.byte body)

/-! ### Urgent codes -/

/-- A posted urgent code is taken (R176). -/
def State.takePosted (s : State) : State :=
  match s.port.posted with
  | some code => { s with port := { s.port with posted := none } }.takeUrgent code
  | none => s

/-- An urgent code of 1 to 3 is written to location 2: it is held and POSTED is set, in place of any code posted, and it is
taken at once unless a request is executing (R175, R176). -/
def State.postUrgent (s : State) (code : UrgentCode) : State :=
  let posted := { s with port := { s.port with posted := some code } }
  if s.port.executing.isNone then posted.takePosted else posted

/-- A write to location 2 (R175): 1 to 3 post a code, 0 withdraws the code posted, any other value does nothing. -/
def State.writeUrgent (s : State) (value : Byte) : State :=
  match value.toNat with
  | 0 => { s with port := { s.port with posted := none } }
  | 1 => s.postUrgent .holdAll
  | 2 => s.postUrgent .resumeAll
  | 3 => s.postUrgent .releaseAll
  | _ => s

/-! ### The end of a request, the reply mailbox and the status byte -/

/-- The port when the executing request ends: its reply is made READY, or discarded after an abort (R171, R172, R174). -/
def Port.replied (p : Port) : Port :=
  match p.executing with
  | some e =>
    if e.aborted then { p with executing := none }
    else { p with executing := none, reply := .ready (replyBytes e.code e.answer) 0 }
  | none => p

/-- The executing request ends, and then a posted urgent code is taken (R171, R176). -/
def State.endRequest (s : State) : State :=
  if s.port.executing.isSome then { s with port := s.port.replied }.takePosted else s

/-- One read of location 0 (R172). -/
def Port.readReply (p : Port) : Port :=
  match p.reply with
  | .empty => { p with dataOut := 0 }
  | .ready bytes next =>
    { p with
      dataOut := bytes.getD next 0
      reply := if next + 1 < bytes.length then .ready bytes (next + 1) else .readOut }
  | .readOut => { p with dataOut := 0, overrun := true }

/-- One read of location 1: the status byte, and overrun is cleared (R168, R169). -/
def State.readStatus (s : State) : State :=
  { s with port := { s.port with dataOut := s.statusByte, overrun := false } }

/-- An abort (R174): an incomplete request, a reply and a posted urgent code are discarded; an executing request keeps its
effect and loses its reply. -/
def Port.abort (p : Port) : Port :=
  { p with
    mailbox := []
    reply := .empty
    posted := none
    executing := p.executing.map fun e => { e with aborted := true } }

/-- A write to location 1: bit 0 set aborts, bit 0 clear does nothing (R168). -/
def State.writeControl (s : State) (value : Byte) : State :=
  if value.getLsbD 0 then { s with port := s.port.abort } else s

/-- A write to location 3: both enables (R160, R168). -/
def State.writeEnables (s : State) (value : Byte) : State :=
  { s with noticesEnable := value.getLsbD 1, port := { s.port with replyReadyEnable := value.getLsbD 0 } }

end Sys2Proof.Machine
end

