-- ==== Sys2Proof/Machine/PortCommands.lean ====
section
/-! DEFINITION. The meanings of the other port rows: single accesses to locations 0 to 3 and the end of a request. -/

namespace Sys2Proof.Machine

/-- REQUEST_BYTE_WRITE (R170). -/
def execRequestByteWrite (value : Byte) (s : State) : Host.Outcome State Fault Refusal :=
  .next (s.writeByte value)

/-- REQUEST_END (R171, R172, R174, R176). -/
def execRequestEnd (s : State) : Host.Outcome State Fault Refusal := .next s.endRequest

/-- REPLY_BYTE_READ (R172). -/
def execReplyByteRead (s : State) : Host.Outcome State Fault Refusal := .next { s with port := s.port.readReply }

/-- STATUS_READ (R169). -/
def execStatusRead (s : State) : Host.Outcome State Fault Refusal := .next s.readStatus

/-- PORT_ABORT (R174). -/
def execPortAbort (value : Byte) (s : State) : Host.Outcome State Fault Refusal := .next (s.writeControl value)

/-- ENABLES_WRITE (R160). -/
def execEnablesWrite (value : Byte) (s : State) : Host.Outcome State Fault Refusal := .next (s.writeEnables value)

/-- HOLD_ALL (R142, R175, R176): 1 is written to location 2. -/
def execHoldAll (s : State) : Host.Outcome State Fault Refusal := .next (s.writeUrgent 1)

/-- RESUME_ALL (R142, R175, R176): 2 is written to location 2. -/
def execResumeAll (s : State) : Host.Outcome State Fault Refusal := .next (s.writeUrgent 2)

/-- RELEASE_ALL (R143, R175, R176): 3 is written to location 2. -/
def execReleaseAll (s : State) : Host.Outcome State Fault Refusal := .next (s.writeUrgent 3)

/-- URGENT_WITHDRAWAL (R175): 0 is written to location 2. -/
def execUrgentWithdrawal (s : State) : Host.Outcome State Fault Refusal := .next (s.writeUrgent 0)

/-- URGENT_CODE_INVALID (R175): a value of 4 to 255 is written to location 2. -/
def execUrgentCodeInvalid (value : Byte) (s : State) : Host.Outcome State Fault Refusal := .next (s.writeUrgent value)

end Sys2Proof.Machine
end

