-- ==== Sys2Proof/Machine/Requests.lean ====
section
/-! DEFINITION. The meanings of the request rows: each request message is written to location 0 and, when the mailbox is
open, taken by the block that owns it (R170, R171, section 11.6). -/

namespace Sys2Proof.Machine

/-- CONFIGURE_BERTH (R146). -/
def execConfigureBerth (body : BerthBody) (s : State) : Host.Outcome State Fault Refusal :=
  sendRequest .configureBerth body.bytes s

/-- ASSIGN (R8 to R11). -/
def execAssign (body : AssignBody) (s : State) : Host.Outcome State Fault Refusal :=
  sendRequest .assign body.bytes s

/-- ARM (R31 to R33). -/
def execArm (kind value : Byte) (s : State) : Host.Outcome State Fault Refusal :=
  sendRequest .arm [kind, value] s

/-- DISARM (R34). -/
def execDisarm (kind value : Byte) (s : State) : Host.Outcome State Fault Refusal :=
  sendRequest .disarm [kind, value] s

/-- SET (R83). -/
def execSet (kind value : Byte) (p b : Half) (s : State) : Host.Outcome State Fault Refusal :=
  sendRequest .set ([kind, value] ++ halfBytes p ++ halfBytes b) s

/-- APPLY (R84). -/
def execApply (kind value : Byte) (s : State) : Host.Outcome State Fault Refusal :=
  sendRequest .apply [kind, value] s

/-- HOLD_LINE (R40). -/
def execHoldLine (kind value : Byte) (s : State) : Host.Outcome State Fault Refusal :=
  sendRequest .holdLine [kind, value] s

/-- RESUME (R41). -/
def execResume (kind value : Byte) (s : State) : Host.Outcome State Fault Refusal :=
  sendRequest .resume [kind, value] s

/-- RELEASE (R98, R100, R105). -/
def execRelease (kind value : Byte) (s : State) : Host.Outcome State Fault Refusal :=
  sendRequest .release [kind, value] s

/-- CLEAR_FAULT (R46). -/
def execClearFault (ref : Byte) (s : State) : Host.Outcome State Fault Refusal :=
  sendRequest .clearFault [ref] s

/-- RETIRE (R15, R16). -/
def execRetire (kind value : Byte) (s : State) : Host.Outcome State Fault Refusal :=
  sendRequest .retire [kind, value] s

/-- ABANDON (R18). -/
def execAbandon (ref : Byte) (s : State) : Host.Outcome State Fault Refusal :=
  sendRequest .abandon [ref] s

/-- READ_RECORD (R14). -/
def execReadRecord (ref : Byte) (s : State) : Host.Outcome State Fault Refusal :=
  sendRequest .readRecord [ref] s

/-- FIND (R12, R13). -/
def execFind (kind value : Byte) (s : State) : Host.Outcome State Fault Refusal :=
  sendRequest .find [kind, value] s

/-- NEXT_NOTICE (R161). -/
def execNextNotice (s : State) : Host.Outcome State Fault Refusal :=
  sendRequest .nextNotice [] s

/-- ACK_EMERGENCY (R144). -/
def execAckEmergency (s : State) : Host.Outcome State Fault Refusal :=
  sendRequest .ackEmergency [] s

/-- STATION_QUERY (R129). -/
def execStationQuery (station kind : Byte) (s : State) : Host.Outcome State Fault Refusal :=
  sendRequest .stationQuery [station, kind] s

/-- ZERO (R132). -/
def execZero (station : Byte) (s : State) : Host.Outcome State Fault Refusal :=
  sendRequest .zero [station] s

/-- PROVE_START (R150). -/
def execProveStart (ref push : Byte) (settle : Half) (increment direction dwell : Byte) (s : State) :
    Host.Outcome State Fault Refusal :=
  sendRequest .proveStart ([ref, push] ++ halfBytes settle ++ [increment, direction, dwell]) s

/-- PROVE_RELEASE (R153). -/
def execProveRelease (ref : Byte) (s : State) : Host.Outcome State Fault Refusal :=
  sendRequest .proveRelease [ref] s

/-- PROVE_STOP (R156). -/
def execProveStop (ref : Byte) (s : State) : Host.Outcome State Fault Refusal :=
  sendRequest .proveStop [ref] s

/-- READ_BERTH (R140). -/
def execReadBerth (s : State) : Host.Outcome State Fault Refusal :=
  sendRequest .readBerth [] s

/-- SET_OUTPUTS (R139). -/
def execSetOutputs (latches : Byte) (s : State) : Host.Outcome State Fault Refusal :=
  sendRequest .setOutputs [latches] s

/-- BAD_REQUEST_HEADER (R171): a message whose header the port refuses is written, byte by byte. -/
def execBadRequestHeader (code : Byte) (body : List Byte) (s : State) : Host.Outcome State Fault Refusal :=
  .next (s.sendMessage code body)

end Sys2Proof.Machine
end

