-- ==== Sys2Proof/Machine/Dispatch.lean ====
section
/-! DEFINITION. `exec`: one arm per command, each one call of that command's meaning. -/

namespace Sys2Proof.Machine

/-- The command's effect on everything but the queue of waiting commands. -/
def exec (i : Instr) (s : State) : Host.Outcome State Fault Refusal :=
  match i with
  | .configureBerth body => Sys2Proof.Machine.execConfigureBerth body s
  | .assign body => Sys2Proof.Machine.execAssign body s
  | .arm kind value => Sys2Proof.Machine.execArm kind value s
  | .disarm kind value => Sys2Proof.Machine.execDisarm kind value s
  | .set kind value p b => Sys2Proof.Machine.execSet kind value p b s
  | .apply kind value => Sys2Proof.Machine.execApply kind value s
  | .holdLine kind value => Sys2Proof.Machine.execHoldLine kind value s
  | .resume kind value => Sys2Proof.Machine.execResume kind value s
  | .release kind value => Sys2Proof.Machine.execRelease kind value s
  | .clearFault ref => Sys2Proof.Machine.execClearFault ref s
  | .retire kind value => Sys2Proof.Machine.execRetire kind value s
  | .abandon ref => Sys2Proof.Machine.execAbandon ref s
  | .readRecord ref => Sys2Proof.Machine.execReadRecord ref s
  | .find kind value => Sys2Proof.Machine.execFind kind value s
  | .nextNotice => Sys2Proof.Machine.execNextNotice s
  | .ackEmergency => Sys2Proof.Machine.execAckEmergency s
  | .stationQuery station kind => Sys2Proof.Machine.execStationQuery station kind s
  | .zero station => Sys2Proof.Machine.execZero station s
  | .proveStart ref push settle increment direction dwell => Sys2Proof.Machine.execProveStart ref push settle increment direction dwell s
  | .proveRelease ref => Sys2Proof.Machine.execProveRelease ref s
  | .proveStop ref => Sys2Proof.Machine.execProveStop ref s
  | .readBerth => Sys2Proof.Machine.execReadBerth s
  | .setOutputs latches => Sys2Proof.Machine.execSetOutputs latches s
  | .badRequestHeader code body => Sys2Proof.Machine.execBadRequestHeader code body s
  | .requestByteWrite value => Sys2Proof.Machine.execRequestByteWrite value s
  | .requestEnd => Sys2Proof.Machine.execRequestEnd s
  | .replyByteRead => Sys2Proof.Machine.execReplyByteRead s
  | .statusRead => Sys2Proof.Machine.execStatusRead s
  | .portAbort value => Sys2Proof.Machine.execPortAbort value s
  | .enablesWrite value => Sys2Proof.Machine.execEnablesWrite value s
  | .holdAll => Sys2Proof.Machine.execHoldAll s
  | .resumeAll => Sys2Proof.Machine.execResumeAll s
  | .releaseAll => Sys2Proof.Machine.execReleaseAll s
  | .urgentWithdrawal => Sys2Proof.Machine.execUrgentWithdrawal s
  | .urgentCodeInvalid value => Sys2Proof.Machine.execUrgentCodeInvalid value s
  | .powerOnReset => Sys2Proof.Machine.execPowerOnReset s
  | .warmReset => Sys2Proof.Machine.execWarmReset s
  | .slotStart => Sys2Proof.Machine.execSlotStart s
  | .slotEnd inTime chars => Sys2Proof.Machine.execSlotEnd inTime chars s
  | .deadlineExpiry expiry => Sys2Proof.Machine.execDeadlineExpiry expiry s
  | .stageDeadlineExpiry expiry => Sys2Proof.Machine.execStageDeadlineExpiry expiry s
  | .lineQualified line => Sys2Proof.Machine.execLineQualified line s
  | .berthLinePinChange line level => Sys2Proof.Machine.execBerthLinePinChange line level s

end Sys2Proof.Machine
end

