-- ==== Sys2Proof/Safety.lean ====
section
/-! DEFINITION. What counts as a legal state of the 2416, in the terms of the manual's whole-machine rules, and the words
the statements use for a request's answer. -/

namespace Sys2Proof.Machine

/-! ### A record on its own -/

/-- The bounds of the tension values (R92), with Q at most 8000 (R3) and B at most a quarter of P (R92). -/
structure Record.TensionOk (r : Record) : Prop where
  slackBelow : r.k + r.b < r.p
  renderAbove : r.p + r.b < r.q
  setpoint : 10 ≤ r.p ∧ r.p ≤ 7000
  band : 1 ≤ r.b ∧ r.b ≤ 500
  quarter : 4 * r.b ≤ r.p
  render : r.q ≤ 8000

/-- The bounds of the length limits (R3, R8, R91). -/
structure Record.LengthOk (r : Record) : Prop where
  limits : r.lMin < r.lMax ∧ r.lMax ≤ 12000
  runOut : r.lMin ≤ r.lRun ∧ r.lRun ≤ r.lMax

/-- The bounds of the regulator's fields (R4, R52): the drift count between 0 and T, the rearm level below T, and the
slack run, step size and totals in their ranges. -/
structure Record.RegulationOk (r : Record) : Prop where
  drift : r.c ≤ r.t
  rearm : r.r < r.t
  trip : 2 ≤ r.t ∧ r.t ≤ 255
  size : 5 ≤ r.stepSize ∧ r.stepSize ≤ 200
  slack : r.slackRun ≤ 5
  totals : r.stepsPaid ≤ 65535 ∧ r.stepsHauled ≤ 65535
  /-- D is NONE when no vote has been cast since the last restart (R52). -/
  noLean : r.lean = none → r.c = 0

/-- Whether a state holds a deadline (R27). -/
def LineState.timed : LineState → Bool
  | .paying | .makingFast | .hauling | .releasing | .rewinding => true
  | _ => false

/-- The optional parts that a record's state permits: a fault cause exactly in FAULT (R5), a step in flight only in TENDING
or HELD, of 1 to 200 cm (R5, R72), a proving part only in TENDING (R149), a deferred trip only in TENDING with C at T (R42,
R70), a deadline exactly in the timed states and frozen only in a moving one (R27, R47). -/
structure Record.PartsOk (r : Record) : Prop where
  cause : r.faultCause.isSome = true ↔ r.state = .fault
  step : ∀ x, r.step = some x → (r.state = .tending ∨ r.state = .held) ∧ 1 ≤ x.amount ∧ x.amount ≤ 200
  proving : r.proving.isSome = true → r.state = .tending
  deferred : r.tripDeferred = true → r.state = .tending ∧ r.c = r.t
  deadline : r.deadline ≠ .absent ↔ r.state.timed = true
  frozen : ∀ n, r.deadline = .frozen n → r.state.moving = true

/-- The bounds of a proving part (R149). -/
structure ProvingPart.Ok (p : ProvingPart) : Prop where
  push : 1 ≤ p.pushCount ∧ p.pushCount ≤ 63
  settle : 8 ≤ p.settleCount ∧ p.settleCount ≤ 1000
  increment : 1 ≤ p.increment ∧ p.increment ≤ 100
  counter : p.counter ≤ 65535
  offset : -6998 ≤ p.offset ∧ p.offset ≤ 7988
  lastSteps : p.lastSteps ≤ 255
  lastInBand : ∀ n, p.lastInBand = some n → n ≤ 999
  tally : ∀ steps first, p.phase = .settle steps first →
    steps ≤ 255 ∧ p.counter < p.settleCount ∧ ∀ n, first = some n → n ≤ 999

/-- Every record of the table satisfies a predicate. -/
def State.EachRecord (s : State) (P : Record → Prop) : Prop := ∀ h r, s.record? h = some r → P r

/-! ### The table as a whole -/

/-- The station rules: at most one engaged record on a station (R31), no two records of one call tag on a station, and at
most two records on a station (R9). -/
structure State.StationsShared (s : State) : Prop where
  engaged : ∀ h h' r r', s.record? h = some r → s.record? h' = some r' → r.station = r'.station →
    r.state.engaged = true → r'.state.engaged = true → h = h'
  callTag : ∀ h h' r r', s.record? h = some r → s.record? h' = some r' → r.station = r'.station →
    r.callTag = r'.callTag → h = h'
  atMostTwo : ∀ st, (s.recordsOn st).length ≤ 2

/-- What presence and miss count say of each other (R121, R123). -/
structure StationEntry.PresenceOk (e : StationEntry) : Prop where
  absent : e.presence = .absent → e.missCount = 0
  present : e.presence = .present → e.missCount ≤ 2
  lost : e.presence = .lost → e.missCount = 3

/-- The entry of a station outside the map is as R117 and R135 leave it: ABSENT, with nothing waiting. -/
structure StationEntry.Unworked (e : StationEntry) : Prop where
  presence : e.presence = .absent
  misses : e.missCount = 0
  command : e.command = none
  pendingKind : e.pendingKind = none
  zeroing : e.zeroing = false
  diagnostic : e.diagState = .empty ∧ e.diagKind = none ∧ e.diagValue = 0

/-- The station table against the map, the configured flag and the line table: an engaged record belongs to a configured
berth and a mapped station (R31, R117); a station outside the map is unworked (R117, R135); an unconfigured berth maps no
station (R20, R22); a ZERO waits only while its station is zeroing, and no record is engaged on a station that is zeroing
(R31, R132). -/
structure State.LinkOk (s : State) : Prop where
  presence : ∀ st, (s.entry st).PresenceOk
  engaged : ∀ h r, s.record? h = some r → r.state.engaged = true → s.configured = true ∧ s.mapped r.station = true
  unmapped : ∀ st, s.mapped st = false → (s.entry st).Unworked
  unconfigured : s.configured = false → s.config.map = 0
  zeroWaits : ∀ st, (s.entry st).command = some .zero → (s.entry st).zeroing = true
  zeroing : ∀ st, (s.entry st).zeroing = true → s.engagedOn st = none

/-- A paused record's deadline is frozen, and a moving record that is not paused has a running one (R27, R47, R48). -/
def State.HoldOk (s : State) : Prop :=
  ∀ h r, s.record? h = some r → r.state.moving = true →
    if s.berthHold then ∃ n, r.deadline = .frozen n else ∃ n, r.deadline = .running n

/-- The group table (R96, R101, R102): a RUNNING stage has members, without duplicates, and each names a RELEASING record of
the group whose role belongs to the stage. -/
def State.GroupsOk (s : State) : Prop :=
  ∀ g stage members remaining, s.groupEntry g = .running stage members remaining →
    members ≠ [] ∧ members.Nodup ∧
    ∀ ref ∈ members, ∃ r, s.record? ref.handle = some r ∧ s.generation ref.handle = ref.generation ∧
      r.state = .releasing ∧ r.group = g ∧ r.role.stage = stage

/-- The port (R170 to R176): while a request executes the mailbox is empty and no reply is held; a code is posted only while
one executes; an incomplete request is shorter than its message; an unread byte of a READY reply stands within its at most
64 bytes. -/
structure Port.Ok (p : Port) : Prop where
  executing : p.executing.isSome = true → p.mailbox = [] ∧ p.reply = .empty
  posted : p.posted.isSome = true → p.executing.isSome = true
  mailbox : p.mailbox.length < 32
  incomplete : ∀ code length body, p.mailbox = code :: length :: body → length.toNat ≤ 30 ∧ body.length < length.toNat
  opened : p.mailbox ≠ [] → p.reply = .empty
  ready : ∀ bytes next, p.reply = .ready bytes next → next < bytes.length ∧ bytes.length ≤ 64
  answer : ∀ e, p.executing = some e → e.answer.body.length ≤ 61

/-! ### Words for the statements -/

/-- The port waits for the first byte of a request. -/
structure Port.Awaits (p : Port) : Prop where
  notExecuting : p.executing = none
  notReady : p.replyReady = false
  mailbox : p.mailbox = []

/-- The port once a request written into a waiting mailbox is taken and answered: it executes, with the mailbox and the
reply mailbox empty and everything else as it was (R170 to R173). -/
def Port.answered (p : Port) (code : RequestCode) (result : Result) (body : List Byte) : Port :=
  { p with
    mailbox := []
    reply := .empty
    executing := some { code := code.byte, answer := { result := result, body := body }, aborted := false } }

/-- A state with the port of another that has answered a request. -/
def State.answering (t s : State) (code : RequestCode) (result : Result) (body : List Byte) : State :=
  { t with port := s.port.answered code result body }

/-! ### Requests as messages -/

end Sys2Proof.Machine

namespace Sys2Proof

/-- The message of a request row: its code byte and its body (sections 11.6 and 11.7). The other rows carry none. -/
def Instr.message : Instr → Option (Byte × List Byte)
  | .configureBerth body => some (1, body.bytes)
  | .assign body => some (2, body.bytes)
  | .arm kind value => some (3, [kind, value])
  | .disarm kind value => some (4, [kind, value])
  | .set kind value p b => some (5, [kind, value] ++ halfBytes p ++ halfBytes b)
  | .apply kind value => some (6, [kind, value])
  | .holdLine kind value => some (7, [kind, value])
  | .resume kind value => some (8, [kind, value])
  | .release kind value => some (9, [kind, value])
  | .clearFault ref => some (10, [ref])
  | .retire kind value => some (11, [kind, value])
  | .abandon ref => some (12, [ref])
  | .readRecord ref => some (13, [ref])
  | .find kind value => some (14, [kind, value])
  | .nextNotice => some (15, [])
  | .ackEmergency => some (16, [])
  | .stationQuery station kind => some (17, [station, kind])
  | .zero station => some (18, [station])
  | .proveStart ref push settle increment direction dwell =>
    some (19, [ref, push] ++ halfBytes settle ++ [increment, direction, dwell])
  | .proveRelease ref => some (20, [ref])
  | .proveStop ref => some (21, [ref])
  | .readBerth => some (22, [])
  | .setOutputs latches => some (23, [latches])
  | .badRequestHeader code body => some (code, body)
  | .requestByteWrite _ | .requestEnd | .replyByteRead | .statusRead | .portAbort _ | .enablesWrite _ | .holdAll
  | .resumeAll | .releaseAll | .urgentWithdrawal | .urgentCodeInvalid _ | .powerOnReset | .warmReset | .slotStart
  | .slotEnd _ _ | .deadlineExpiry _ | .stageDeadlineExpiry _ | .lineQualified _ | .berthLinePinChange _ _ => none

end Sys2Proof

namespace Sys2Proof.Machine

/-- Bytes written to location 0 one after another, each by a REQUEST_BYTE_WRITE of its own. -/
def writeBytes : List Byte → State → Host.Outcome State Fault Refusal
  | [], s => .next s
  | b :: rest, s =>
    match exec (.requestByteWrite b) s with
    | .next t => writeBytes rest t
    | .fault f => .fault f
    | .refused r => .refused r

/-- The command that writes an urgent code to location 2 (R175). -/
def UrgentCode.instr : UrgentCode → Instr
  | .holdAll => .holdAll
  | .resumeAll => .resumeAll
  | .releaseAll => .releaseAll

/-! ### Records rewritten and commands given -/

/-- How many records satisfy a test. -/
def State.count (s : State) (test : Record → Bool) : Nat := (s.handlesWith test).length

/-- Whether some record on a station satisfies a test. -/
def State.anyOn (s : State) (station : Fin 24) (test : Record → Bool) : Bool :=
  (List.finRange 32).any fun h => s.holds h fun r => r.station = station && test r

/-- A station table entry once a command has been given for its station (R94). -/
def StationEntry.given (e : StationEntry) (command : Command) : StationEntry :=
  if commandPlaced e.command command then { e with command := some command } else e

/-- Between two states, the given command, if one, has been given for each station, and the station table and the scan are
otherwise as they were (R94, R126). -/
structure State.CommandsGiven (s t : State) (given : Fin 24 → Option Command) : Prop where
  entries : ∀ st, t.entry st =
    match given st with
    | some command => (s.entry st).given command
    | none => s.entry st
  scan : t.scan = { s.scan with slot := s.scan.slot.map fun slot =>
    { slot with replaced := slot.replaced ||
        (given s.scan.station).any (commandPlaced (s.entry s.scan.station).command) } }

/-- Between two states, every record has been rewritten as said, the commands said have been given, and nothing else has
changed. -/
structure State.Dealt (s t : State) (rewrite : Fin 32 → Record → Record) (given : Fin 24 → Option Command) : Prop where
  records : ∀ h, t.record? h = (s.record? h).map (rewrite h)
  generations : ∀ h, t.generation h = s.generation h
  commands : s.CommandsGiven t given
  rest : t = { s with table := t.table, stations := t.stations, scan := t.scan }

/-- The test of the records that a GROUP or BERTH target names (R80): `none` for a REFERENCE target and for a target that
R80 refuses. -/
def memberTest (kind value : Byte) : Option (Record → Bool) :=
  match kind.toNat with
  | 1 => if value.toNat < 8 then some fun r => r.group.val = value.toNat else none
  | 2 => some fun _ => true
  | _ => none

/-- What a request with a target does when it may act on a record whatever it does to the others: a REFERENCE target is
acted on or refused with BAD STATE, and the members of a GROUP or BERTH target are acted on or skipped and counted
(R81, R82). The owning block rewrites the records it acts on and does nothing else. -/
structure ActsOn (command : Byte → Byte → Instr) (code : RequestCode) (permitted : State → Record → Bool)
    (effect : Record → Record) : Prop where
  reference : ∀ (s : State) (ref : Byte) (r : Record), s.port.Awaits → s.names (Ref.ofByte ref) = true →
    s.record? (Ref.ofByte ref).handle = some r → permitted s r = true →
    exec (command 0 ref) s =
      .next ((s.putRecord (Ref.ofByte ref).handle (effect r)).answering s code .done [1, 0])
  refused : ∀ (s : State) (ref : Byte) (r : Record), s.port.Awaits → s.names (Ref.ofByte ref) = true →
    s.record? (Ref.ofByte ref).handle = some r → permitted s r = false →
    exec (command 0 ref) s = .next (s.answering s code .badState [])
  members : ∀ (s : State) (kind value : Byte) (member : Record → Bool), s.port.Awaits →
    memberTest kind value = some member →
    ∃ t, s.Dealt t (fun _ r => if member r && permitted s r then effect r else r) (fun _ => none) ∧
      exec (command kind value) s = .next (t.answering s code .done
        [byteOf (s.count fun r => member r && permitted s r), byteOf (s.count fun r => member r && !permitted s r)])

/-! ### Events of the berth lines and the release -/

/-- Berth hold has come into force between two states (R47): each moving record has its deadline frozen, and STOP-BRAKE is
given for its station. -/
def State.HoldBegun (s t : State) : Prop :=
  s.Dealt t (fun _ r => if r.state.moving then { r with deadline := r.deadline.freeze } else r)
    (fun st => if s.anyOn st (·.state.moving) then some .stopBrake else none)

/-- A record once a contact event has been taken (R35): an ARMED record is PAYING with the pay time running, or frozen
under berth hold. -/
def Record.contactMade (hold : Bool) (pay : Nat) (r : Record) : Record :=
  if r.state = .armed then { r with state := .paying, deadline := if hold then .frozen pay else .running pay } else r

/-- The one record of a station that is ARMED, if there is one. -/
def State.armedOn (s : State) (station : Fin 24) : Option Record :=
  (List.finRange 32).findSome? fun h => (s.record? h).filter fun r => r.station = station && r.state = .armed

/-- Contact has become active between two states (R35): every ARMED record has entered PAYING, with PAY TO, or STOP-BRAKE
under berth hold, given for its station. -/
def State.ContactMade (s t : State) : Prop :=
  s.Dealt t (fun _ r => r.contactMade s.berthHold s.config.timeouts.pay)
    (fun st => (s.armedOn st).map fun r => if s.berthHold then .stopBrake else .payTo r.lRun)

/-- The states that emergency release takes to RELEASING (R109). -/
def LineState.letGo : LineState → Bool
  | .paying | .makingFast | .hauling | .tending | .held | .fault => true
  | .prepared | .armed | .releasing | .rewinding | .stowed => false

/-- A record once an emergency release has been performed (R109). -/
def Record.emergencyReleased (clear : Nat) (r : Record) : Record :=
  if r.state.letGo then
    { r with
      state := .releasing
      deadline := .running clear
      step := none
      proving := none
      faultCause := none
      tripDeferred := false
      notices := { r.notices with emergencyReleased := true } }
  else if r.state = .armed then
    { r with state := .prepared, deadline := .absent, notices := { r.notices with emergencyReleased := true } }
  else r

/-- An emergency release has been performed between two states (R109, R110, R143): the latch is set, every group's stage is
NONE, each record is dealt with by its state, and FREE is given for the station of each record let go. -/
def State.EmergencyReleased (s t : State) : Prop :=
  { s with emergencyLatch := true, groups := Vector.replicate 8 .idle }.Dealt t
    (fun _ r => r.emergencyReleased s.config.timeouts.clear)
    (fun st => if s.anyOn st (·.state.letGo) then some .free else none)

/-- Whether a group's stage takes a record as a member (R101). -/
def Record.joins (r : Record) (g : Fin 8) (stage : Stage) : Bool :=
  r.group = g && r.role.stage = stage && r.state.releasable

/-- The first stage of a list that has members in a group (R101). -/
def State.firstStage (s : State) (g : Fin 8) (stages : List Stage) : Option Stage :=
  stages.find? fun stage => !(s.stageMembers g stage).isEmpty

/-- The stage that `starts` begins for a record's group takes the record as a member. -/
def Record.joinsAny (r : Record) (starts : Fin 8 → Option Stage) : Bool := (starts r.group).any (r.joins r.group)

/-- The stages said have been started in their groups between two states (R97, R101): each entry is RUNNING with its
members' references in ascending handle order and the stage time, each member is RELEASING with the clear time running,
and FREE is given for its station. -/
structure State.StagesStarted (s t : State) (starts : Fin 8 → Option Stage) : Prop where
  groups : ∀ g, t.groupEntry g =
    match starts g with
    | some stage => .running stage ((s.stageMembers g stage).map s.refOf) s.config.timeouts.stage
    | none => s.groupEntry g
  rest : { s with groups := t.groups }.Dealt t
    (fun _ r =>
      if r.joinsAny starts then
        { r with
          state := .releasing
          deadline := .running s.config.timeouts.clear
          step := none
          tripDeferred := false
          proving := none
          faultCause := none }
      else r)
    (fun st => if s.anyOn st (·.joinsAny starts) then some .free else none)

/-! ### Time -/

/-- What is left of a remaining time after `elapsed` units of 0.1 s in which it does not run out (R27; log 5). -/
def timeLeft (elapsed remaining : Nat) : Nat := if elapsed < remaining then remaining - elapsed else min 1 remaining

/-- Between two states `elapsed` units of 0.1 s have passed, in which no deadline ran out: every running deadline and every
running stage deadline has lost them, but not its last unit (log 5), a frozen deadline keeps its remaining time, and
nothing else has changed (R27, R96). -/
structure State.TimePassed (s t : State) (elapsed : Nat) : Prop where
  rest : t = { s with table := t.table, groups := t.groups }
  generations : ∀ h, t.generation h = s.generation h
  records : ∀ h, t.record? h = (s.record? h).map fun r =>
    match r.deadline with
    | .running n => { r with deadline := .running (timeLeft elapsed n) }
    | _ => r
  groups : ∀ g, t.groupEntry g =
    match s.groupEntry g with
    | .running stage members n => .running stage members (timeLeft elapsed n)
    | e => e

/-! ### The end of a slot -/

/-- The slot in progress ends with a good reply: it is the slot of a mapped station, and its characters are judged to carry
a frame, followed by `extra` (R119, R120). -/
structure State.Receives (s : State) (inTime : Bool) (chars : List LinkChar) (slot : LinkSlot) (f : Frame)
    (extra : List LinkChar) : Prop where
  inProgress : s.scan.slot = some slot
  worked : slot.kind ≠ .silent
  mapped : s.mapped s.scan.station = true
  good : slot.judge inTime chars = some (f, extra)

/-- The slot in progress ends with a miss: it is the slot of a mapped station, and its reply is not good (R120). -/
structure State.Misses (s : State) (inTime : Bool) (chars : List LinkChar) (slot : LinkSlot) : Prop where
  inProgress : s.scan.slot = some slot
  worked : slot.kind ≠ .silent
  mapped : s.mapped s.scan.station = true
  notGood : slot.judge inTime chars = none

/-- The scan moved on to the next station, between slots (R116). -/
def State.slotOver (s : State) : State := { s with scan := { station := s.scan.station + 1, slot := none } }

/-- The state after steps 1 to 5 of a good reply (R122): the station's entry is written and the slot is over. -/
def State.afterReply (s : State) (slot : LinkSlot) (f : Frame) (extra : List LinkChar) : State :=
  s.slotOver.putEntry s.scan.station ((s.entry s.scan.station).goodReply slot f extra)

/-- A record once a sample has written M and L (R24). -/
def Record.sampled (r : Record) (f : Frame) : Record := { r with m := f.tension, len := f.length }

/-- A record that has entered FAULT (R26, R42): the cause is held and carried by FAULT ENTERED, and the deadline, a step in
flight, a proving part and a deferred trip are gone. -/
def Record.inFault (r : Record) (cause : FaultCause) : Record :=
  { r with
    state := .fault
    faultCause := some cause
    deadline := .absent
    step := none
    proving := none
    tripDeferred := false
    notices := { r.notices with faultEntered := some cause } }

/-- The engaged states from which a failure takes a record to FAULT (R44, R45). -/
def LineState.fails : LineState → Bool
  | .paying | .makingFast | .hauling | .tending | .held | .releasing | .rewinding => true
  | .prepared | .armed | .stowed | .fault => false

/-! ### The end of berth hold -/

/-- Whether the end of berth hold takes a deferred trip of the record (R71). -/
def Record.tripsAtHoldEnd (r : Record) : Bool := r.state = .tending && r.tripDeferred && r.c = r.t && r.step.isNone

/-- A record once a trip leaning as its lean says has been taken (R63 to R69): deferred under berth hold; at a length limit,
where the episode of its direction starts with its notice unless it is under way; deferred by a waiting FREE or STOP-BRAKE
(`blocked`); or issued as a step, with C at R, the trip deferred flag and both episodes cleared, and counted in a SETTLE. -/
def Record.afterTrip (r : Record) (hold blocked : Bool) : Record :=
  match r.lean with
  | none => r
  | some dir =>
    if hold then { r with tripDeferred := true }
    else if r.stepAmount dir = 0 then
      match dir with
      | .pay => if r.payLimit then r else { r with payLimit := true, notices := { r.notices with payLimit := true } }
      | .haul => if r.haulLimit then r else { r with haulLimit := true, notices := { r.notices with haulLimit := true } }
    else if blocked then { r with tripDeferred := true }
    else { r with
      step := some { dir := dir, amount := r.stepAmount dir }
      c := r.r
      tripDeferred := false
      payLimit := false
      haulLimit := false
      proving := r.proving.map ProvingPart.countIssued }

/-- The command that a trip gives (R65): a step of the amount of R64, unless the trip is deferred or the amount is 0. -/
def Record.tripCommand (r : Record) (hold blocked : Bool) : Option Command :=
  if hold || blocked then none
  else match r.lean with
    | none => none
    | some .pay => if r.stepAmount .pay = 0 then none else some (.stepPay (r.stepAmount .pay))
    | some .haul => if r.stepAmount .haul = 0 then none else some (.stepHaul (r.stepAmount .haul))

/-- A record once the end of berth hold has been taken (R48, R71): a moving record's deadline runs on; a deferred trip's
flag is cleared and the trip taken. -/
def Record.afterHold (r : Record) (blocked : Bool) : Record :=
  if r.state.moving then { r with deadline := r.deadline.thaw }
  else if r.tripsAtHoldEnd then Record.afterTrip { r with tripDeferred := false } false blocked
  else r

/-- The command that the end of berth hold gives for a record's station (R48, R71). -/
def Record.commandAtHoldEnd (r : Record) (blocked : Bool) : Option Command :=
  if r.state.moving then some r.moveCommand
  else if r.tripsAtHoldEnd then r.tripCommand false blocked
  else none

/-- The engaged record of a station, if there is one. -/
def State.engagedRecord (s : State) (station : Fin 24) : Option Record := (s.engagedOn station).bind s.record?

/-- Berth hold has ended between two states, no group waiting (R48, R71), and `holdEnds`, the model's own count (log 8,
DESIGN CHOICE), has gone up by one. -/
def State.HoldEnded (s t : State) : Prop :=
  { s with holdEnds := s.holdEnds + 1 }.Dealt t
    (fun _ r => r.afterHold (s.stepBlocked r.station))
    (fun st => (s.engagedRecord st).bind fun r => r.commandAtHoldEnd (s.stepBlocked st))

/-- No group has a WAITING stage. -/
def State.NoneWaits (s : State) : Prop := ∀ g ended, s.groupEntry g ≠ .waiting ended

/-- The stage that each WAITING group goes on to (R104). -/
def State.waitingStarts (s : State) (g : Fin 8) : Option Stage :=
  match s.groupEntry g with
  | .waiting ended => s.firstStage g ended.later
  | _ => none

/-- The state with every WAITING group's stage NONE. -/
def State.waitsOver (s : State) : State :=
  { s with groups := mapEntries (fun e => match e with | .waiting _ => .idle | other => other) s.groups }

/-! ### A member leaves its stage -/

/-- Between two states, a stage of a group has ended (R104): while an interlock is active a BREAST or ENDS stage leaves the
group WAITING; otherwise the next stage with members has started, or the stage is NONE. -/
def State.StageEnded (s t : State) (g : Fin 8) (stage : Stage) : Prop :=
  if s.interlocked = true ∧ stage ≠ .spring then t = s.putGroup g (.waiting stage)
  else (s.putGroup g .idle).StagesStarted t fun g' => if g' = g then s.firstStage g stage.later else none

/-- Between two states, what `ref` names has left RELEASING or has been freed (R102, R113): it is gone from its group's
member list, and a list left empty has ended the stage. -/
def State.MemberLeft (s t : State) (g : Fin 8) (ref : Ref) : Prop :=
  match s.groupEntry g with
  | .running stage members remaining =>
    if ref ∈ members then
      if members.all (· = ref) then s.StageEnded t g stage
      else t = s.putGroup g (.running stage (members.filter (· ≠ ref)) remaining)
    else t = s
  | _ => t = s

/-- The state in which the record `r` of slot `h` has entered FAULT and STOP-BRAKE has been given for its station (R26). -/
def State.afterFault (s : State) (h : Fin 32) (r : Record) (cause : FaultCause) : State :=
  (s.putRecord h (r.inFault cause)).giveCommand r.station .stopBrake

/-- The state in which slot `h` holds `r`, given its new moving state, with its command given and its deadline set to the
full time, or, under berth hold, with STOP-BRAKE given and the deadline frozen (R27, R47). -/
def State.afterMove (s : State) (h : Fin 32) (r : Record) (command : Command) (time : Nat) : State :=
  if s.berthHold then (s.putRecord h { r with deadline := .frozen time }).giveCommand r.station .stopBrake
  else (s.putRecord h { r with deadline := .running time }).giveCommand r.station command

/-! ### Arming, applying and releasing a target -/

/-- Whether a record passes ARM's checks on its own, every other record as it stands (R31). -/
def State.mayArm (s : State) (member : Record → Bool) (r : Record) : Bool :=
  member r && r.state = .prepared && (s.entry r.station).presence = .present && (s.engagedOn r.station).isNone &&
    !(s.entry r.station).zeroing

/-- Whether ARM of a target arms the record of slot `h`: no record of lower handle is armed on its station before it
(R33). -/
def State.arms (s : State) (member : Record → Bool) (h : Fin 32) (r : Record) : Bool :=
  s.mayArm member r &&
    !(List.finRange 32).any fun h' => h' < h && s.holds h' fun r' => r'.station = r.station && s.mayArm member r'

/-- How many records ARM of a target arms. -/
def State.armedCount (s : State) (member : Record → Bool) : Nat :=
  ((List.finRange 32).filter fun h => s.holds h (s.arms member h)).length

/-- The record that ARM of a target arms on a station, if there is one. -/
def State.armedFor (s : State) (member : Record → Bool) (station : Fin 24) : Option Record :=
  (List.finRange 32).findSome? fun h => (s.record? h).filter fun r => r.station = station && s.arms member h r

/-- Whether APPLY acts on a record (R84). -/
def Record.applies (r : Record) : Bool := r.state.settable && r.pending.isSome

/-- A record once APPLY has acted on it (R84, R86, R87). -/
def Record.afterApply (r : Record) : Record :=
  match r.pending with
  | none => r
  | some part =>
    if r.state = .tending then { r.applied part with c := 0, lean := none, tripDeferred := false } else r.applied part

/-- The stages that a RELEASE of a group starts (R100). -/
def State.groupStarts (s : State) (g : Fin 8) (g' : Fin 8) : Option Stage :=
  if g' = g then s.firstStage g allStages else none

/-- The stages that a RELEASE of the berth starts (R105). -/
def State.berthStarts (s : State) (g : Fin 8) : Option Stage :=
  if s.groupEntry g = .idle then s.firstStage g allStages else none

/-- A state with a command given for a station, if there is one to give (R94). -/
def State.giving (s : State) (station : Fin 24) (command : Option Command) : State :=
  match command with
  | some c => s.giveCommand station c
  | none => s

/-! ### Fields and times in range -/

/-- Every field of a record in its range, and its optional parts where its state permits them (R3 to R5, R79, R149). Handle,
generation, station, call tag, group and role are in their ranges by their types. -/
structure Record.FieldsOk (r : Record) : Prop where
  lengths : r.LengthOk
  tension : r.TensionOk
  measured : r.len ≤ 16383 ∧ r.m ≤ 8191
  pending : ∀ part, r.pending = some part → part.p ≤ 8191 ∧ part.b ≤ 8191
  regulation : r.RegulationOk
  parts : r.PartsOk
  proving : ∀ p, r.proving = some p → p.Ok

/-- A time in 0.1 s units, 1 to 6000 (R22). -/
def timeOk (n : Nat) : Prop := 1 ≤ n ∧ n ≤ 6000

/-- The six timeouts are in range (R22). -/
structure Timeouts.Ok (t : Timeouts) : Prop where
  pay : timeOk t.pay
  fast : timeOk t.fast
  haul : timeOk t.haul
  clear : timeOk t.clear
  stall : timeOk t.stall
  stage : timeOk t.stage

/-- Every timeout, remaining time and remaining stage time is in range (R22, R27, R96). -/
structure State.TimesOk (s : State) : Prop where
  timeouts : s.config.timeouts.Ok
  running : ∀ h r n, s.record? h = some r → r.deadline = .running n → timeOk n
  frozen : ∀ h r n, s.record? h = some r → r.deadline = .frozen n → timeOk n
  stages : ∀ g stage members n, s.groupEntry g = .running stage members n → timeOk n

end Sys2Proof.Machine
end

