-- ==== Sys2Proof/WellFormed.lean ====
section
/-! DEFINITION. Which commands are of the form their row describes. Most operands are bytes that the part itself accepts
or refuses; the checks below concern the rows that stand for a part of a wider family of accesses. Every command has a
meaning in `exec`, well-formed or not: an ill-formed one acts as the access that its operands spell. -/

namespace Sys2Proof

/-- The checks on a command's operands, row by row. -/
def Instr.wellFormed : Instr → Bool
  | .badRequestHeader code body => decide (body.length ≤ 30) && (headerRequest code body.length).isNone
  | .portAbort value => value.getLsbD 0
  | .urgentCodeInvalid value => decide (4 ≤ value.toNat)
  | .slotEnd _ chars => chars.all (fun c => !c.getLsbD 0) && decide (chars.length ≤ 83)
  | .configureBerth _ => true
  | .assign _ => true
  | .arm _ _ => true
  | .disarm _ _ => true
  | .set _ _ _ _ => true
  | .apply _ _ => true
  | .holdLine _ _ => true
  | .resume _ _ => true
  | .release _ _ => true
  | .clearFault _ => true
  | .retire _ _ => true
  | .abandon _ => true
  | .readRecord _ => true
  | .find _ _ => true
  | .nextNotice => true
  | .ackEmergency => true
  | .stationQuery _ _ => true
  | .zero _ => true
  | .proveStart _ _ _ _ _ _ => true
  | .proveRelease _ => true
  | .proveStop _ => true
  | .readBerth => true
  | .setOutputs _ => true
  | .requestByteWrite _ => true
  | .requestEnd => true
  | .replyByteRead => true
  | .statusRead => true
  | .enablesWrite _ => true
  | .holdAll => true
  | .resumeAll => true
  | .releaseAll => true
  | .urgentWithdrawal => true
  | .powerOnReset => true
  | .warmReset => true
  | .slotStart => true
  | .deadlineExpiry _ => true
  | .stageDeadlineExpiry _ => true
  | .lineQualified _ => true
  | .berthLinePinChange _ _ => true

end Sys2Proof
end

