-- ==== Sys2Proof/Certificates/Slice0/Obligations.lean ====
section
/-! DEFINITION. The statements for the provers. Unless it says otherwise a statement is about every state, reachable or
not. A request is written into a waiting port (`Port.Awaits`): while the port does not wait, its bytes go where
`RequestMailboxTakesItsBytes` says. A result of the form `t.answering s code result body` says that everything but the port
is as in `t`, and that the port executes the request with that result and reply body, its mailboxes empty and its other
fields as in `s`. -/

open Sys2Proof Sys2Proof.Machine

/-! ### The block and its queue -/

/-- One step takes the command at the front of the queue and does what `exec` does with it and the rest of the queue. -/
def Obligations.StepTakesFrontCommand : Prop :=
  ∀ (c : Instr) (s : State), step { s with pending := c :: s.pending } = exec c s

/-- Every command, in every state, answers a next state: the block has no fault and refuses nothing. It neither reads nor
changes the queue of waiting commands. -/
def Obligations.EveryCommandCompletesBesideTheQueue : Prop :=
  ∀ (c : Instr) (s : State), ∃ t : State, exec c s = .next t ∧ t.pending = s.pending ∧
    ∀ q, exec c { s with pending := q } = .next { t with pending := q }

/-- The model's choice of log 5: on an empty queue a step is 0.1 s. Every running deadline and every running stage
deadline with more than one unit left loses one (R27, R96), a frozen deadline keeps its remaining time, and nothing
else changes. -/
def Obligations.IdleStepPassesTime : Prop :=
  ∀ s : State, s.pending = [] → ∃ t : State, step s = .next t ∧ s.TimePassed t 1

/-! ### The berth computer port -/

/-- A request row is the writing of its message (the model's choice of log 3): the row does what its bytes do one by one
into a waiting mailbox, and does the same when the berth computer has already written any part of the message. -/
def Obligations.RequestRowIsItsBytes : Prop :=
  ∀ (i : Instr) (code : Byte) (body : List Byte), i.message = some (code, body) → i.wellFormed = true →
    ∀ s : State, s.port.Awaits →
      writeBytes (messageBytes code body) s = exec i s ∧
      ∀ n, n < (messageBytes code body).length → ∀ t, writeBytes ((messageBytes code body).take n) s = .next t →
        exec i t = exec i s

/-- What one byte written to location 0 does (R170): discarded with overrun while the mailbox is closed; a first byte, a
length of 1 to 30 and a body byte short of the last are kept, and end a READ OUT reply; a length above 30 is answered
with BAD REQUEST at once; the last body byte of a message, or a length of 0, completes it, and a header that names no
request is answered with BAD REQUEST, reaching no block. (A header that names one is `RequestRowIsItsBytes`.) A whole
message whose header names no request, or has another length than the request's, is answered with BAD REQUEST and
changes nothing outside the port (R171). That a refused header, like a request that a block takes, is left executing
until REQUEST_END is the model's inference (log 4, DEDUCED); R170 and R171 give its answer. -/
def Obligations.RequestMailboxTakesItsBytes : Prop :=
  (∀ (s : State) (v : Byte),
     (s.port.executing ≠ none ∨ s.port.replyReady = true →
       exec (.requestByteWrite v) s = .next { s with port := { s.port with overrun := true } }) ∧
     (s.port.executing = none → s.port.replyReady = false →
       (s.port.mailbox = [] →
         exec (.requestByteWrite v) s = .next { s with port := { s.port with mailbox := [v], reply := .empty } }) ∧
       (∀ code, s.port.mailbox = [code] → 30 < v.toNat →
         exec (.requestByteWrite v) s =
           .next { s with port := { s.port with mailbox := [], reply := .ready [code, 1, 0] 0 } }) ∧
       (∀ code, s.port.mailbox = [code] → 1 ≤ v.toNat → v.toNat ≤ 30 →
         exec (.requestByteWrite v) s = .next { s with port := { s.port with mailbox := [code, v], reply := .empty } }) ∧
       (∀ code length body, s.port.mailbox = code :: length :: body → length.toNat ≤ 30 →
         body.length + 1 < length.toNat →
         exec (.requestByteWrite v) s =
           .next { s with port := { s.port with mailbox := code :: length :: (body ++ [v]), reply := .empty } }) ∧
       (∀ code, s.port.mailbox = [code] → v = 0 → headerRequest code 0 = none →
         exec (.requestByteWrite v) s = .next { s with port := { s.port with
           mailbox := [], reply := .empty,
           executing := some { code := code, answer := { result := .badRequest, body := [] }, aborted := false } } }) ∧
       (∀ code length body, s.port.mailbox = code :: length :: body → length.toNat ≤ 30 →
         body.length + 1 = length.toNat → headerRequest code length.toNat = none →
         exec (.requestByteWrite v) s = .next { s with port := { s.port with
           mailbox := [], reply := .empty,
           executing := some { code := code, answer := { result := .badRequest, body := [] }, aborted := false } } }))) ∧
  (∀ (s : State) (code : Byte) (body : List Byte), s.port.Awaits → body.length ≤ 30 →
     (∀ c : RequestCode, c.byte = code → c.bodyLength ≠ body.length) →
     exec (.badRequestHeader code body) s = .next { s with port := { s.port with
       mailbox := [], reply := .empty,
       executing := some { code := code, answer := { result := .badRequest, body := [] }, aborted := false } } })

/-- The end of the executing request (R171, R172, R174, R176): its reply of code, result, body length and body is made
READY at its first byte, or is discarded if an abort has come between; then a posted urgent code is taken as if it
were written now. With nothing executing nothing ends. A read of location 0 (R172): EMPTY gives 0; READY gives the
next byte, and the last of them makes the mailbox READ OUT; READ OUT gives 0 and sets overrun. -/
def Obligations.RepliesAreMadeAndReadOnce : Prop :=
  (∀ s : State,
     (s.port.executing = none → exec .requestEnd s = .next s) ∧
     ∀ e, s.port.executing = some e →
       (s.port.posted = none → e.aborted = false →
         exec .requestEnd s = .next { s with port := { s.port with
           executing := none
           reply := .ready (e.code :: byteOf e.answer.result.code :: byteOf e.answer.body.length :: e.answer.body) 0 } }) ∧
       (s.port.posted = none → e.aborted = true →
         exec .requestEnd s = .next { s with port := { s.port with executing := none } }) ∧
       (∀ code, s.port.posted = some code → ∃ t : State,
         exec .requestEnd { s with port := { s.port with posted := none } } = .next t ∧
         exec .requestEnd s = exec code.instr t)) ∧
  (∀ s : State,
     (s.port.reply = .empty → exec .replyByteRead s = .next { s with port := { s.port with dataOut := 0 } }) ∧
     (s.port.reply = .readOut →
       exec .replyByteRead s = .next { s with port := { s.port with dataOut := 0, overrun := true } }) ∧
     (∀ bytes next (inside : next < bytes.length), s.port.reply = .ready bytes next →
       exec .replyByteRead s = .next { s with port := { s.port with
         dataOut := bytes[next]
         reply := if next + 1 = bytes.length then .readOut else .ready bytes (next + 1) } }))

/-- The status byte and the overrun flag (R169). Each bit of the byte read follows the state; the read clears overrun and
changes nothing else, attention included. Overrun is set by a byte written while the request mailbox is closed and by
a read of location 0 while the reply mailbox is READ OUT, is clear after either reset, and stands through an abort. -/
def Obligations.StatusByteShowsEightConditions : Prop :=
  ∀ s : State,
    (∃ t : State, exec .statusRead s = .next t ∧
      t = { s with port := { s.port with dataOut := t.port.dataOut, overrun := false } } ∧
      t.attention = s.attention ∧
      t.port.dataOut.getLsbD 7 = s.emergencyLatch ∧
      (t.port.dataOut.getLsbD 6 = true ↔ ∃ h r, s.record? h = some r ∧
        (r.notices.overload = true ∨ r.notices.payLimit = true ∨ r.notices.emergencyReleased = true ∨
          r.notices.faultEntered.isSome = true)) ∧
      (t.port.dataOut.getLsbD 5 = true ↔ ∃ h r, s.record? h = some r ∧
        (r.notices.tendingReached = true ∨ r.notices.stowed = true ∨ r.notices.haulLimit = true ∨
          r.notices.resetHold = true ∨ r.notices.provingResult = true)) ∧
      t.port.dataOut.getLsbD 4 = s.port.posted.isSome ∧
      t.port.dataOut.getLsbD 3 = s.port.overrun ∧
      (t.port.dataOut.getLsbD 2 = true ↔ ∃ bytes next, s.port.reply = .ready bytes next) ∧
      (t.port.dataOut.getLsbD 1 = true ↔
        s.port.executing = none ∧ ∀ bytes next, s.port.reply ≠ .ready bytes next) ∧
      t.port.dataOut.getLsbD 0 = s.configured) ∧
    (∀ v, s.port.requestOpen = false → ∃ t : State, exec (.requestByteWrite v) s = .next t ∧ t.port.overrun = true) ∧
    (∀ v, s.port.requestOpen = true → ∃ t : State, exec (.requestByteWrite v) s = .next t ∧ t.port.overrun = s.port.overrun) ∧
    (s.port.reply = .readOut → ∃ t : State, exec .replyByteRead s = .next t ∧ t.port.overrun = true) ∧
    (s.port.reply ≠ .readOut → ∃ t : State, exec .replyByteRead s = .next t ∧ t.port.overrun = s.port.overrun) ∧
    (∃ t : State, exec .powerOnReset s = .next t ∧ t.port.overrun = false) ∧
    (∃ t : State, exec .warmReset s = .next t ∧ t.port.overrun = false) ∧
    (∀ v, ∃ t : State, exec (.portAbort v) s = .next t ∧ t.port.overrun = s.port.overrun)

/-- ST1 and ST0 (R148): EMERGENCY, HOLD, RUNNING or UNCONFIGURED from the emergency latch, berth hold and the configured
flag; UNCONFIGURED after a power-on reset; after a warm reset HOLD if any line is assigned HOLD, else RUNNING if
configured and UNCONFIGURED if not. ATTN# (R165): asserted exactly while one of its four causes holds; released after
either reset; an abort takes away the ready reply as a cause and leaves the other three. -/
def Obligations.StateOutputsAndAttention : Prop :=
  ((∀ s : State,
     (s.emergencyLatch = true → s.st1 = true ∧ s.st0 = true ∧ s.berthState = .emergency) ∧
     (s.emergencyLatch = false → s.berthHold = true → s.st1 = true ∧ s.st0 = false ∧ s.berthState = .hold) ∧
     (s.emergencyLatch = false → s.berthHold = false → s.configured = true →
       s.st1 = false ∧ s.st0 = true ∧ s.berthState = .running) ∧
     (s.emergencyLatch = false → s.berthHold = false → s.configured = false →
       s.st1 = false ∧ s.st0 = false ∧ s.berthState = .unconfigured)) ∧
   (∀ s : State, ∃ t : State, exec .powerOnReset s = .next t ∧ t.berthState = .unconfigured) ∧
   (∀ s : State, ∃ t : State, exec .warmReset s = .next t ∧ t.berthState =
     if ∃ l, (s.lineConfig l).function = .hold then .hold else if s.configured then .running else .unconfigured) ∧
   (∀ s : State, s.port.Awaits → exec .readBerth s = .next (s.answering s .readBerth .done s.berthReport) ∧
     s.berthReport[9]? = some (byteOf s.berthState.code))) ∧
  ((∀ s : State, s.attention = true ↔
     s.emergencyLatch = true ∨
     (∃ h r, s.record? h = some r ∧ r.notices.anyAlert = true) ∨
     (s.noticesEnable = true ∧ ∃ h r, s.record? h = some r ∧ r.notices.anyNotice = true) ∨
     (s.port.replyReadyEnable = true ∧ ∃ bytes next, s.port.reply = .ready bytes next)) ∧
   (∀ s : State, ∃ t : State, exec .powerOnReset s = .next t ∧ t.attention = false) ∧
   (∀ s : State, ∃ t : State, exec .warmReset s = .next t ∧ t.attention = false) ∧
   (∀ (s : State) (v : Byte), v.getLsbD 0 = true → ∃ t : State, exec (.portAbort v) s = .next t ∧
     (t.attention = true ↔ s.emergencyLatch = true ∨ s.alertPending = true ∨
       (s.noticesEnable = true ∧ s.noticePending = true))))

/-- A write to location 1 with bit 0 set is an abort (R174): an incomplete request, a reply and a posted urgent code are
discarded, an executing request loses its reply, and overrun, the enables and everything outside the port stand. With
bit 0 clear it does nothing (R168). A write to location 3 writes both enables and nothing else (R160). Urgent codes
(R175, R176): while a request executes a code is posted in place of any other and waits; a 0 withdraws the code
posted; a value of 4 to 255 does nothing; location 2 reads the code posted, or 0. -/
def Obligations.ControlEnableAndUrgentWrites : Prop :=
  (∀ (s : State) (v : Byte),
     (v.getLsbD 0 = true → exec (.portAbort v) s = .next { s with port := { s.port with
       mailbox := []
       reply := .empty
       posted := none
       executing := s.port.executing.map fun e => { e with aborted := true } } }) ∧
     (v.getLsbD 0 = false → exec (.portAbort v) s = .next s) ∧
     exec (.enablesWrite v) s = .next { s with
       noticesEnable := v.getLsbD 1
       port := { s.port with replyReadyEnable := v.getLsbD 0 } }) ∧
  (∀ s : State,
     (∀ code : UrgentCode, s.port.executing ≠ none →
       exec code.instr s = .next { s with port := { s.port with posted := some code } }) ∧
     exec .urgentWithdrawal s = .next { s with port := { s.port with posted := none } } ∧
     (∀ v : Byte, 4 ≤ v.toNat → exec (.urgentCodeInvalid v) s = .next s) ∧
     (s.port.posted = none → s.location2 = 0) ∧
     (s.port.posted = some .holdAll → s.location2 = 1) ∧
     (s.port.posted = some .resumeAll → s.location2 = 2) ∧
     (s.port.posted = some .releaseAll → s.location2 = 3))

/-! ### Berth hold, emergency and the berth lines -/

/-- HOLD ALL taken (R47, R141, R142, R176): the software hold is set. Where berth hold was not in force it comes into
force: every record in PAYING, HAULING or REWINDING has its running deadline frozen and STOP-BRAKE given for its
station. Where it was in force nothing else happens. RESUME ALL taken (R48, R71, R142, R176): the software hold alone
is cleared. If that ends berth hold, and no group is waiting, each paused record is given its command again and its
deadline runs on, and each deferred trip is taken. That an end of berth hold adds one to `holdEnds`, the model's own
count, is the model's choice (log 8), no rule's. -/
def Obligations.HoldAllAndResumeAll : Prop :=
  (∀ s : State, s.port.executing = none →
     (s.berthHold = false → ∃ t : State, exec .holdAll s = .next t ∧
       { s with softwareHold := true, port := { s.port with posted := none } }.HoldBegun t) ∧
     (s.berthHold = true →
       exec .holdAll s = .next { s with softwareHold := true, port := { s.port with posted := none } })) ∧
  (∀ s : State, s.port.executing = none →
     (s.berthHold = true → s.condition .hold = false → s.StationsShared → s.NoneWaits → ∃ t : State,
       exec .resumeAll s = .next t ∧
       { s with softwareHold := false, port := { s.port with posted := none } }.HoldEnded t) ∧
     (s.berthHold = false ∨ s.condition .hold = true →
       exec .resumeAll s = .next { s with softwareHold := false, port := { s.port with posted := none } }))

/-- A WAITING group at an end of berth hold (R104, R112, R141), which RESUME ALL makes or a qualification of a line. While
the ramp condition is active the group goes on waiting. While it is inactive the next stage with members starts, its
members gathered as they stand, or the stage becomes NONE. Whichever of the stage start and a member's deferred trip is
taken first, the member is RELEASING with FREE waiting at its station, no step in flight and no step counted. -/
def Obligations.WaitingStageStartsWhenHoldEnds : Prop :=
  ∀ (s : State) (c : Instr) (g : Fin 8) (ended : Stage),
    (c = .resumeAll ∧ s.port.executing = none ∧ s.softwareHold = true ∧ s.condition .hold = false ∨
      ∃ l s', c = .lineQualified l ∧ (s.lineConfig l).function ≠ .generalOut ∧ (s.line l).qualifying = true ∧
        s' = s.putLine l { s.line l with qualified := some (s.line l).pin, qualifying := false } ∧
        s.conditions.berthHold = true ∧ s'.conditions = { s.conditions with berthHold := false }) →
    s.groupEntry g = .waiting ended →
    ∃ t : State, exec c s = .next t ∧
      (s.condition .ramp = true → t.groupEntry g = .waiting ended) ∧
      (s.condition .ramp = false →
        (s.firstStage g ended.later = none → t.groupEntry g = .idle) ∧
        ∀ stage, s.firstStage g ended.later = some stage →
          t.groupEntry g = .running stage ((s.stageMembers g stage).map s.refOf) s.config.timeouts.stage ∧
          ∀ h ∈ s.stageMembers g stage, ∃ r r', s.record? h = some r ∧ t.record? h = some r' ∧
            r'.state = .releasing ∧ r'.deadline = .running s.config.timeouts.clear ∧ r'.step = none ∧
            r'.stepsPaid = r.stepsPaid ∧ r'.stepsHauled = r.stepsHauled ∧ (t.entry r.station).command = some .free)

/-- RELEASE ALL taken (R109, R110, R143, R176): the latch is set and the emergency release performed, whatever the latch,
hold, ramp, stages and configured flag: each record is dealt with by its state, EMERGENCY RELEASED is raised on those
it moves, FREE is given for the stations of those it lets go, and every group's stage becomes NONE. -/
def Obligations.ReleaseAllLetsEveryWorkingLineGo : Prop :=
  ∀ s : State, s.port.executing = none → ∃ t : State, exec .releaseAll s = .next t ∧
    { s with port := { s.port with posted := none } }.EmergencyReleased t

/-- A qualification that changes one condition alone (R35, R47, R48, R71, R99, R104, R138, R141, R143). Contact made
takes the ARMED records to PAYING; berth hold comes into force, or ends while no group is WAITING (a group that is
WAITING then is `WaitingStageStartsWhenHoldEnds`); an emergency sets the latch and performs the emergency release; a
ramp that clears starts the next stage of every WAITING group, unless berth hold is in force; contact lost, a ramp
coming down and an emergency over reach no record and no group. That an end of berth hold adds one to `holdEnds`, the
model's own count, is the model's choice (log 8), no rule's. -/
def Obligations.ConditionChangesReachTheirBlocks : Prop :=
  ∀ (s : State) (l : Fin 8), (s.lineConfig l).function ≠ .generalOut → (s.line l).qualifying = true →
    ∀ s', s' = s.putLine l { s.line l with qualified := some (s.line l).pin, qualifying := false } →
    ∃ t : State, exec (.lineQualified l) s = .next t ∧
      (s'.conditions = { s.conditions with contact := true } → s.conditions.contact = false → s.StationsShared →
        s'.ContactMade t) ∧
      (s'.conditions = { s.conditions with contact := false } → t = s') ∧
      (s'.conditions = { s.conditions with berthHold := true } → s.conditions.berthHold = false → s'.HoldBegun t) ∧
      (s'.conditions = { s.conditions with berthHold := false } → s.conditions.berthHold = true → s.StationsShared →
        s.NoneWaits → s'.HoldEnded t) ∧
      (s'.conditions = { s.conditions with emergency := true } → s.conditions.emergency = false →
        s'.EmergencyReleased t) ∧
      (s'.conditions = { s.conditions with emergency := false } → t = s') ∧
      (s'.conditions = { s.conditions with ramp := true } → t = s') ∧
      (s'.conditions = { s.conditions with ramp := false } → s.conditions.ramp = true →
        (s'.berthHold = true → t = s') ∧
        (s'.berthHold = false → s'.waitsOver.StagesStarted t s'.waitingStarts))

/-- A change of level on a pin starts the 50 ms of an input line afresh (R137); a level already there changes nothing.
The qualified level stands until the qualification (the model's choice of log 14: only the level outside is
recorded). A qualification (R137, R138): the level on the pin becomes the qualified level of an input line that has
one to qualify, and nothing is taken of another line. A change that leaves the conditions and berth hold as they were
reaches no block. -/
def Obligations.PinLevelsAreQualified : Prop :=
  (∀ (s : State) (l : Fin 8) (level : Level),
     ((s.line l).pin = level → exec (.berthLinePinChange l level) s = .next s) ∧
     ((s.line l).pin ≠ level → ∃ t : State, exec (.berthLinePinChange l level) s = .next t ∧ t = { s with lines := t.lines } ∧
       t.line l = { s.line l with pin := level, qualifying := decide ((s.lineConfig l).function ≠ .generalOut) } ∧
       ∀ l', l' ≠ l → t.line l' = s.line l')) ∧
  (∀ (s : State) (l : Fin 8),
     ((s.lineConfig l).function = .generalOut ∨ (s.line l).qualifying = false →
       exec (.lineQualified l) s = .next s) ∧
     ((s.lineConfig l).function ≠ .generalOut → (s.line l).qualifying = true →
       (s.putLine l { s.line l with qualified := some (s.line l).pin, qualifying := false }).conditions = s.conditions →
       exec (.lineQualified l) s =
         .next (s.putLine l { s.line l with qualified := some (s.line l).pin, qualifying := false })))

/-- SET OUTPUTS writes all eight latches and nothing else (R139), and each GENERAL OUT line then drives the active level
of its polarity while its latch is 1 and the other level while it is 0; no other line is driven (R136). ACK EMERGENCY
(R144): refused with INTERLOCK while the emergency condition is active, else the latch is cleared and nothing else
changes, configured or not. -/
def Obligations.OutputsAndAcknowledgement : Prop :=
  (∀ (s : State) (latches : Byte), s.port.Awaits → ∃ t : State,
     exec (.setOutputs latches) s = .next (t.answering s .setOutputs .done []) ∧
     t = { s with lines := t.lines } ∧
     (∀ l : Fin 8, t.line l = { s.line l with latch := latches.getLsbD l }) ∧
     (∀ l : Fin 8, (s.lineConfig l).function ≠ .generalOut → t.driven l = none) ∧
     (∀ l : Fin 8, (s.lineConfig l).function = .generalOut →
       (t.driven l = some .high ↔ latches.getLsbD l ≠ (s.lineConfig l).activeLow) ∧
       (t.driven l = some .low ↔ latches.getLsbD l = (s.lineConfig l).activeLow))) ∧
  (∀ s : State, s.port.Awaits →
     (s.condition .emergency = true → exec .ackEmergency s = .next (s.answering s .ackEmergency .interlock [])) ∧
     (s.condition .emergency = false →
       exec .ackEmergency s = .next ({ s with emergencyLatch := false }.answering s .ackEmergency .done [])))

/-- The conditions and berth hold (R136, R138, R141): each condition follows the lines assigned its function, a line
whose level is NONE counting as active for HOLD and RAMP alone; an unassigned CONTACT is active and every other
unassigned condition inactive. -/
def Obligations.ConditionsFollowTheirLines : Prop :=
  ∀ s : State,
    (∀ f : LineFunction, f = .contact ∨ f = .hold ∨ f = .ramp ∨ f = .emergency →
      ((∀ l, (s.lineConfig l).function ≠ f) → (s.condition f = true ↔ f = .contact)) ∧
      ((∃ l, (s.lineConfig l).function = f) →
        (s.condition f = true ↔ ∃ l, (s.lineConfig l).function = f ∧
          ((s.line l).qualified = some .high ∧ (s.lineConfig l).activeLow = false ∨
            (s.line l).qualified = some .low ∧ (s.lineConfig l).activeLow = true ∨
            (s.line l).qualified = none ∧ (f = .hold ∨ f = .ramp))))) ∧
    (s.berthHold = true ↔ s.condition .hold = true ∨ s.softwareHold = true)

/-- CONFIGURE BERTH's refusals, in order (R146): a line byte with bits 6..3 set, an engaged record, a timeout outside 1
to 6000, a function code above 5. A refused request changes nothing. The effect of a CONFIGURE BERTH that passes
(R22, R116, R117, R137, R138, R139, R143, R146), as one event: the configuration is written and the flag set; the
entries of stations removed from the map are reset but for last reply and toggle; a line that becomes or ceases to be
an output takes level NONE, latches kept; the scan begins if the flag was clear; an emergency condition made active
sets the latch and every stage to NONE; an interlock that clears ends the wait of every WAITING group, whose next
stages have no members; no record changes. That an end of berth hold adds one to `holdEnds`, the model's own count, is
the model's choice (log 8), no rule's. -/
def Obligations.ConfigureBerthChecksAndWrites : Prop :=
  (∀ (s : State) (body : BerthBody), s.port.Awaits →
     ((∃ l : Fin 8, (body.lines[l]).extractLsb' 3 4 ≠ 0) →
       exec (.configureBerth body) s = .next (s.answering s .configureBerth .badRequest [])) ∧
     ((∀ l : Fin 8, (body.lines[l]).extractLsb' 3 4 = 0) →
       ((∃ h r, s.record? h = some r ∧ r.state ≠ .prepared ∧ r.state ≠ .stowed) →
         exec (.configureBerth body) s = .next (s.answering s .configureBerth .badState [])) ∧
       ((∀ h r, s.record? h = some r → r.state = .prepared ∨ r.state = .stowed) →
         ((∃ time ∈ [body.pay, body.fast, body.haul, body.clear, body.stall, body.stage],
             time.toNat = 0 ∨ 6000 < time.toNat) →
           exec (.configureBerth body) s = .next (s.answering s .configureBerth .range [])) ∧
         ((∃ l : Fin 8, 5 < ((body.lines[l]).extractLsb' 0 3).toNat) →
           exec (.configureBerth body) s = .next (s.answering s .configureBerth .range []))))) ∧
  (∀ (s : State) (body : BerthBody), s.port.Awaits →
     (∀ l : Fin 8, (body.lines[l]).extractLsb' 3 4 = 0 ∧ ((body.lines[l]).extractLsb' 0 3).toNat ≤ 5) →
     (∀ h r, s.record? h = some r → r.state = .prepared ∨ r.state = .stowed) →
     (∀ time ∈ [body.pay, body.fast, body.haul, body.clear, body.stall, body.stage],
       1 ≤ time.toNat ∧ time.toNat ≤ 6000) →
     ∃ t : State, exec (.configureBerth body) s = .next (t.answering s .configureBerth .done []) ∧
       t = { s with
         config := t.config, configured := true, stations := t.stations, lines := t.lines,
         scan := (if s.configured then s.scan else { station := 0, slot := none }),
         groups := t.groups, emergencyLatch := t.emergencyLatch, holdEnds := t.holdEnds } ∧
       t.config.timeouts = {
         pay := body.pay.toNat, fast := body.fast.toNat, haul := body.haul.toNat,
         clear := body.clear.toNat, stall := body.stall.toNat, stage := body.stage.toNat } ∧
       t.config.map = body.map ∧
       (∀ l : Fin 8, (t.lineConfig l).function.code = ((body.lines[l]).extractLsb' 0 3).toNat ∧
         (t.lineConfig l).activeLow = (body.lines[l]).getLsbD 7) ∧
       (∀ st, t.entry st =
         if s.mapped st = true ∧ body.map.getLsbD st = false then
           { StationEntry.reset with lastReply := (s.entry st).lastReply, toggle := (s.entry st).toggle }
         else s.entry st) ∧
       (∀ l, t.line l =
         if ((s.lineConfig l).function = .generalOut) = ((t.lineConfig l).function = .generalOut) then s.line l
         else { s.line l with qualified := none, qualifying := decide ((t.lineConfig l).function ≠ .generalOut) }) ∧
       t.emergencyLatch = (s.emergencyLatch || !s.condition .emergency && t.condition .emergency) ∧
       t.holdEnds = s.holdEnds + (if s.berthHold && !t.berthHold then 1 else 0) ∧
       (∀ g, t.groupEntry g =
         if !s.condition .emergency && t.condition .emergency then .idle
         else match s.groupEntry g with
           | .waiting stage => if s.interlocked && !t.interlocked then .idle else .waiting stage
           | e => e))

/-- READ BERTH changes nothing and answers with 42 bytes (R140, R177, section 11.7): a byte for each line, the conditions
and flags, the berth state, and four bytes for each group. That the bits to which section 11.7 gives no meaning (bit 6
of a line's byte, bits 6 to 2 of a group's stage byte) read 0 is the model's choice (log 16). -/
def Obligations.BerthReportLayout : Prop :=
  ∀ s : State, s.port.Awaits → ∃ body, exec .readBerth s = .next (s.answering s .readBerth .done body) ∧
    body.length = 42 ∧
    (∀ l : Fin 8,
      ((byteAt body l).extractLsb' 0 3).toNat = (s.lineConfig l).function.code ∧
      (byteAt body l).getLsbD 3 = (s.line l).latch ∧
      ((byteAt body l).extractLsb' 4 2).toNat =
        (if (s.lineConfig l).function = .generalOut then 0
         else match (s.line l).qualified with
          | none => 0
          | some .low => 1
          | some .high => 2) ∧
      (byteAt body l).getLsbD 6 = false ∧
      (byteAt body l).getLsbD 7 = (s.lineConfig l).activeLow) ∧
    (byteAt body 8).getLsbD 0 = s.condition .contact ∧
    (byteAt body 8).getLsbD 1 = s.condition .hold ∧
    (byteAt body 8).getLsbD 2 = s.condition .ramp ∧
    (byteAt body 8).getLsbD 3 = s.condition .emergency ∧
    (byteAt body 8).getLsbD 4 = s.softwareHold ∧
    (byteAt body 8).getLsbD 5 = s.berthHold ∧
    (byteAt body 8).getLsbD 6 = s.emergencyLatch ∧
    (byteAt body 8).getLsbD 7 = s.configured ∧
    byteAt body 9 = byteOf s.berthState.code ∧
    ∀ g : Fin 8,
      (s.groupEntry g = .idle →
        byteAt body (10 + 4 * g) = 0 ∧ byteAt body (11 + 4 * g) = 0 ∧ halfAt body (12 + 4 * g) = 0) ∧
      (∀ stage members remaining, s.groupEntry g = .running stage members remaining →
        byteAt body (10 + 4 * g) = byteOf stage.code ∧ byteAt body (11 + 4 * g) = byteOf members.length ∧
        halfAt body (12 + 4 * g) = BitVec.ofNat 16 remaining) ∧
      (∀ stage, s.groupEntry g = .waiting stage →
        byteAt body (10 + 4 * g) = byteOf (128 + stage.code) ∧ byteAt body (11 + 4 * g) = 0 ∧
        halfAt body (12 + 4 * g) = 0)

/-! ### References and targets -/

/-- Every request that names a single record, given a reference to a FREE slot or to another generation, is refused with
BAD REF before anything else of its body is looked at, and changes nothing in any block; a reference that passes
names the record its slot holds (R6). -/
def Obligations.StaleReferencesAreRefused : Prop :=
  ∀ (s : State) (ref : Byte), s.port.Awaits →
    (s.names (Ref.ofByte ref) = true ↔
      (∃ r, s.record? (Ref.ofByte ref).handle = some r) ∧
        s.generation (Ref.ofByte ref).handle = (Ref.ofByte ref).generation) ∧
    (s.names (Ref.ofByte ref) = false →
      exec (.arm 0 ref) s = .next (s.answering s .arm .badRef []) ∧
      exec (.disarm 0 ref) s = .next (s.answering s .disarm .badRef []) ∧
      (∀ p b, exec (.set 0 ref p b) s = .next (s.answering s .set .badRef [])) ∧
      exec (.apply 0 ref) s = .next (s.answering s .apply .badRef []) ∧
      exec (.holdLine 0 ref) s = .next (s.answering s .holdLine .badRef []) ∧
      exec (.resume 0 ref) s = .next (s.answering s .resume .badRef []) ∧
      exec (.release 0 ref) s = .next (s.answering s .release .badRef []) ∧
      exec (.clearFault ref) s = .next (s.answering s .clearFault .badRef []) ∧
      exec (.retire 0 ref) s = .next (s.answering s .retire .badRef []) ∧
      exec (.abandon ref) s = .next (s.answering s .abandon .badRef []) ∧
      exec (.readRecord ref) s = .next (s.answering s .readRecord .badRef []) ∧
      (∀ push settle increment direction dwell, exec (.proveStart ref push settle increment direction dwell) s =
        .next (s.answering s .proveStart .badRef [])) ∧
      exec (.proveRelease ref) s = .next (s.answering s .proveRelease .badRef []) ∧
      exec (.proveStop ref) s = .next (s.answering s .proveStop .badRef []))

/-- A target kind above 2 is refused with BAD REQUEST and a group above 7 with RANGE, whatever the rest of the body;
RETIRE refuses a BERTH target with BAD REQUEST (R16, R80). A refusal changes nothing. -/
def Obligations.BadTargetsAreRefused : Prop :=
  ∀ (s : State) (kind value : Byte) (result : Result), s.port.Awaits →
    (2 < kind.toNat ∧ result = .badRequest ∨ kind = 1 ∧ 7 < value.toNat ∧ result = .range →
      exec (.arm kind value) s = .next (s.answering s .arm result []) ∧
      exec (.disarm kind value) s = .next (s.answering s .disarm result []) ∧
      (∀ p b, exec (.set kind value p b) s = .next (s.answering s .set result [])) ∧
      exec (.apply kind value) s = .next (s.answering s .apply result []) ∧
      exec (.holdLine kind value) s = .next (s.answering s .holdLine result []) ∧
      exec (.resume kind value) s = .next (s.answering s .resume result []) ∧
      exec (.release kind value) s = .next (s.answering s .release result []) ∧
      exec (.retire kind value) s = .next (s.answering s .retire result [])) ∧
    exec (.retire 2 value) s = .next (s.answering s .retire .badRequest [])

/-! ### The line table -/

/-- ASSIGN's checks, in order (R8, R9, R10): RANGE; STATION TAKEN where two records name the station or one names it with
the call tag; TABLE FULL. A refused request changes nothing. An ASSIGN that passes its checks places the new record
in the lowest FREE slot, at the slot's generation, with the values of R11 under the clamps of R90 and R91, answers
with its reference, and changes nothing else. -/
def Obligations.AssignChecksAndCreates : Prop :=
  (∀ (s : State) (a : AssignBody), s.port.Awaits →
     (23 < a.station.toNat ∨ 7 < a.group.toNat ∨ 3 < a.role.toNat ∨ a.lMax.toNat ≤ a.lMin.toNat ∨ 12000 < a.lMax.toNat →
       exec (.assign a) s = .next (s.answering s .assign .range [])) ∧
     (a.station.toNat ≤ 23 → a.group.toNat ≤ 7 → a.role.toNat ≤ 3 → a.lMin.toNat < a.lMax.toNat →
       a.lMax.toNat ≤ 12000 →
       (2 ≤ s.count (fun r => r.station.val = a.station.toNat) ∨
           (∃ h r, s.record? h = some r ∧ r.station.val = a.station.toNat ∧ r.callTag = a.callTag) →
         exec (.assign a) s = .next (s.answering s .assign .stationTaken [])) ∧
       (s.count (fun r => r.station.val = a.station.toNat) < 2 →
         (∀ h r, s.record? h = some r → r.station.val = a.station.toNat → r.callTag ≠ a.callTag) →
         (∀ h, s.record? h ≠ none) →
         exec (.assign a) s = .next (s.answering s .assign .tableFull [])))) ∧
  (∀ (s : State) (a : AssignBody) (h : Fin 32), s.port.Awaits →
     a.station.toNat ≤ 23 → a.group.toNat ≤ 7 → a.role.toNat ≤ 3 → a.lMin.toNat < a.lMax.toNat → a.lMax.toNat ≤ 12000 →
     s.count (fun r => r.station.val = a.station.toNat) < 2 →
     (∀ h r, s.record? h = some r → r.station.val = a.station.toNat → r.callTag ≠ a.callTag) →
     s.record? h = none → (∀ h', h' < h → s.record? h' ≠ none) →
     ∃ (r : Record) (t : State),
       exec (.assign a) s = .next (t.answering s .assign .done [(s.refOf h).byte]) ∧
       t = { s with table := t.table } ∧
       (∀ h', t.generation h' = s.generation h') ∧
       (∀ h', h' ≠ h → t.record? h' = s.record? h') ∧
       t.record? h = some r ∧
       r.station.val = a.station.toNat ∧ r.callTag = a.callTag ∧ r.group.val = a.group.toNat ∧
       r.role.code = a.role.toNat ∧ r.state = .prepared ∧
       r.lMin = a.lMin.toNat ∧ r.lMax = a.lMax.toNat ∧ r.lRun = max r.lMin (min r.lMax a.lRun.toNat) ∧
       r.len = 0 ∧ r.m = 0 ∧
       r.p = max 10 (min 7000 a.p.toNat) ∧
       r.b = max 1 (min (min 500 (r.p / 4)) a.b.toNat) ∧
       r.q = max (r.p + r.b + 1) (min 8000 a.q.toNat) ∧
       r.k = min (r.p - r.b - 1) a.k.toNat ∧
       r.t = max 2 a.t.toNat ∧ r.r = min (r.t - 1) a.r.toNat ∧ r.stepSize = max 5 (min 200 a.s.toNat) ∧
       r.c = 0 ∧ r.lean = none ∧ r.tripDeferred = false ∧ r.slackRun = 0 ∧
       r.overload = false ∧ r.payLimit = false ∧ r.haulLimit = false ∧ r.stepsPaid = 0 ∧ r.stepsHauled = 0 ∧
       r.deadline = .absent ∧ r.pending = none ∧ r.step = none ∧ r.proving = none ∧ r.faultCause = none ∧
       r.notices = .empty)

/-- RETIRE (R7, R15, R16, R17): a STOWED or PREPARED record is discarded and its slot's generation goes up by 1, 7 being
followed by 0; a reference to a record in another state is refused with BAD STATE, and a group's records in other
states are skipped. Nothing outside the table changes and no command is given. ABANDON frees a record in any state
(R17, R18, R113): STOP-BRAKE is given for the station of an engaged record, the slot's generation goes up, and a
member of a running stage leaves its group's list, which ends the stage if no other member is left. -/
def Obligations.RetireAndAbandonFreeSlots : Prop :=
  ((∀ (s : State) (ref : Byte) (r : Record), s.port.Awaits → s.names (Ref.ofByte ref) = true →
     s.record? (Ref.ofByte ref).handle = some r →
     (r.state ≠ .stowed → r.state ≠ .prepared →
       exec (.retire 0 ref) s = .next (s.answering s .retire .badState [])) ∧
     (r.state = .stowed ∨ r.state = .prepared → ∃ t : State,
       exec (.retire 0 ref) s = .next (t.answering s .retire .done [1, 0]) ∧
       t = { s with table := t.table } ∧
       ∀ h, t.record? h = (if h = (Ref.ofByte ref).handle then none else s.record? h) ∧
         t.generation h = (if h = (Ref.ofByte ref).handle then s.generation h + 1 else s.generation h))) ∧
   (∀ (s : State) (g : Fin 8), s.port.Awaits → ∃ t : State,
     exec (.retire 1 (byteOf g)) s = .next (t.answering s .retire .done
       [byteOf (s.count fun r => r.group = g && (r.state = .stowed || r.state = .prepared)),
         byteOf (s.count fun r => r.group = g && r.state ≠ .stowed && r.state ≠ .prepared)]) ∧
     t = { s with table := t.table } ∧
     ∀ h, let freed := s.holds h fun r => r.group = g && (r.state = .stowed || r.state = .prepared)
       t.record? h = (if freed then none else s.record? h) ∧
       t.generation h = (if freed then s.generation h + 1 else s.generation h))) ∧
  (∀ (s : State) (ref : Byte) (r : Record), s.port.Awaits → s.names (Ref.ofByte ref) = true →
     s.record? (Ref.ofByte ref).handle = some r → ∀ freed : State,
       freed = (s.giving r.station (if r.state.engaged then some .stopBrake else none)).freeSlot (Ref.ofByte ref).handle →
       (∀ h, freed.record? h = (if h = (Ref.ofByte ref).handle then none else s.record? h) ∧
         freed.generation h = (if h = (Ref.ofByte ref).handle then s.generation h + 1 else s.generation h)) ∧
       ∃ t : State, freed.MemberLeft t r.group (Ref.ofByte ref) ∧
         exec (.abandon ref) s = .next (t.answering s .abandon .done [1, 0]))

/-- FIND lists every record with the key, in ascending handle order, and changes nothing (R12, R13). A key kind above 2
is refused with BAD REQUEST, a station above 23 and a group above 7 with RANGE. READ RECORD changes nothing and
answers with the 57 bytes of the snapshot (R14, R56, R178, section 11.7): each field at its offset, an absent part
with its presence bit clear and its fields 0. -/
def Obligations.FindAndReadRecord : Prop :=
  (∀ (s : State) (kind value : Byte), s.port.Awaits →
     (∀ key : Record → Nat,
       kind = 0 ∧ value.toNat ≤ 23 ∧ (key = fun r => r.station.val) ∨ kind = 1 ∧ (key = fun r => r.callTag.toNat) ∨
         kind = 2 ∧ value.toNat ≤ 7 ∧ (key = fun r => r.group.val) →
       ∃ found : List (Fin 32), found.Pairwise (· < ·) ∧ found.length ≤ 32 ∧
         (∀ h, h ∈ found ↔ ∃ r, s.record? h = some r ∧ key r = value.toNat) ∧
         exec (.find kind value) s = .next (s.answering s .find .done
           ([kind, value, byteOf found.length] ++ found.map fun h => (s.refOf h).byte))) ∧
     (2 < kind.toNat → exec (.find kind value) s = .next (s.answering s .find .badRequest [])) ∧
     (kind = 0 ∧ 23 < value.toNat ∨ kind = 2 ∧ 7 < value.toNat →
       exec (.find kind value) s = .next (s.answering s .find .range []))) ∧
  (∀ (s : State) (ref : Byte) (r : Record), s.port.Awaits → s.names (Ref.ofByte ref) = true →
     s.record? (Ref.ofByte ref).handle = some r → ∃ body,
       exec (.readRecord ref) s = .next (s.answering s .readRecord .done body) ∧ body.length = 57 ∧
       byteAt body 0 = ref ∧ byteAt body 1 = byteOf r.station ∧ byteAt body 2 = r.callTag ∧
       byteAt body 3 = byteOf r.group ∧ byteAt body 4 = byteOf r.role.code ∧ byteAt body 5 = byteOf r.state.code ∧
       halfAt body 6 = BitVec.ofNat 16 r.lRun ∧ halfAt body 8 = BitVec.ofNat 16 r.lMin ∧
       halfAt body 10 = BitVec.ofNat 16 r.lMax ∧ halfAt body 12 = BitVec.ofNat 16 r.len ∧
       halfAt body 14 = BitVec.ofNat 16 r.p ∧ halfAt body 16 = BitVec.ofNat 16 r.b ∧
       halfAt body 18 = BitVec.ofNat 16 r.q ∧ halfAt body 20 = BitVec.ofNat 16 r.k ∧
       halfAt body 22 = BitVec.ofNat 16 r.m ∧ halfAt body 24 = BitVec.ofInt 16 r.effective ∧
       (byteAt body 26).getLsbD 0 = r.pending.isSome ∧ (byteAt body 26).getLsbD 1 = r.step.isSome ∧
       (byteAt body 26).getLsbD 2 = (r.step.any fun step => step.dir = .haul) ∧
       (byteAt body 26).getLsbD 3 = r.proving.isSome ∧ (byteAt body 26).getLsbD 4 = r.tripDeferred ∧
       (byteAt body 26).getLsbD 5 = r.overload ∧ (byteAt body 26).getLsbD 6 = r.payLimit ∧
       (byteAt body 26).getLsbD 7 = r.haulLimit ∧
       halfAt body 27 = BitVec.ofNat 16 ((r.pending.map PendingPart.p).getD 0) ∧
       halfAt body 29 = BitVec.ofNat 16 ((r.pending.map PendingPart.b).getD 0) ∧
       byteAt body 31 = byteOf r.c ∧
       byteAt body 32 = (match r.lean with | none => 0 | some .pay => 1 | some .haul => 2) ∧
       byteAt body 33 = byteOf r.t ∧ byteAt body 34 = byteOf r.r ∧ byteAt body 35 = byteOf r.stepSize ∧
       byteAt body 36 = byteOf r.slackRun ∧
       halfAt body 37 = BitVec.ofNat 16 r.stepsPaid ∧ halfAt body 39 = BitVec.ofNat 16 r.stepsHauled ∧
       byteAt body 41 = byteOf ((r.step.map StepInFlight.amount).getD 0) ∧
       (r.deadline = .absent → byteAt body 42 = 0 ∧ halfAt body 43 = 0) ∧
       (∀ n, r.deadline = .running n → byteAt body 42 = 1 ∧ halfAt body 43 = BitVec.ofNat 16 n) ∧
       (∀ n, r.deadline = .frozen n → byteAt body 42 = 2 ∧ halfAt body 43 = BitVec.ofNat 16 n) ∧
       (r.proving = none →
         byteAt body 45 = 0 ∧ halfAt body 46 = 0 ∧ halfAt body 48 = 0 ∧ byteAt body 50 = 0 ∧ halfAt body 51 = 0) ∧
       (∀ p, r.proving = some p → byteAt body 45 = byteOf p.phase.code ∧ halfAt body 46 = BitVec.ofNat 16 p.counter ∧
         halfAt body 48 = BitVec.ofInt 16 p.offset ∧ byteAt body 50 = byteOf p.lastSteps ∧
         halfAt body 51 = BitVec.ofNat 16 (p.lastInBand.getD 65535)) ∧
       byteAt body 53 = byteOf ((r.faultCause.map FaultCause.code).getD 0) ∧
       (byteAt body 54).getLsbD 0 = r.notices.overload ∧ (byteAt body 54).getLsbD 1 = r.notices.payLimit ∧
       (byteAt body 54).getLsbD 2 = r.notices.emergencyReleased ∧
       (byteAt body 54).getLsbD 3 = r.notices.faultEntered.isSome ∧
       (byteAt body 54).getLsbD 4 = r.notices.tendingReached ∧ (byteAt body 54).getLsbD 5 = r.notices.stowed ∧
       (byteAt body 54).getLsbD 6 = r.notices.haulLimit ∧ (byteAt body 54).getLsbD 7 = r.notices.resetHold ∧
       byteAt body 55 = (if r.notices.provingResult then 1 else 0) ∧
       byteAt body 56 = byteOf ((r.notices.faultEntered.map FaultCause.code).getD 0))

/-- NEXT NOTICE (R161, R162, R163): the lowest record with an alert pending gives a SHORT report of its alerts, which are
removed; without one, and with the notices enable set, the lowest record with a notice pending gives a FULL report of
its notices and its snapshot, and they are removed; without either the report is NONE. Nothing else changes. That bits 7 to 4 of the SHORT report's alert-kinds byte, to
which section 11.7 gives no meaning, read 0 is the model's choice (log 16). -/
def Obligations.NextNoticeReportsTheLowestRecord : Prop :=
  ∀ s : State, s.port.Awaits →
    (∀ h r, s.record? h = some r → r.notices.anyAlert = true →
      (∀ h' r', h' < h → s.record? h' = some r' → r'.notices.anyAlert = false) →
      exec .nextNotice s = .next ((s.putRecord h { r with notices := { r.notices with
          overload := false, payLimit := false, emergencyReleased := false, faultEntered := none } }).answering s
        .nextNotice .done ([1, (s.refOf h).byte,
          byteOf (r.notices.overload.toNat + 2 * r.notices.payLimit.toNat + 4 * r.notices.emergencyReleased.toNat +
            8 * r.notices.faultEntered.isSome.toNat), byteOf r.state.code] ++ halfBytes (BitVec.ofNat 16 r.m) ++
          [byteOf (match r.notices.faultEntered with
            | some cause => cause.code
            | none => if r.state = .fault then (r.faultCause.map FaultCause.code).getD 0 else 0)]))) ∧
    (s.alertPending = false → s.noticesEnable = true → ∀ h r, s.record? h = some r → r.notices.anyNotice = true →
      (∀ h' r', h' < h → s.record? h' = some r' → r'.notices.anyNotice = false) →
      exec .nextNotice s = .next ((s.putRecord h { r with notices := { r.notices with
          tendingReached := false, stowed := false, haulLimit := false, resetHold := false,
          provingResult := false } }).answering s
        .nextNotice .done ([2, byteOf (16 * r.notices.tendingReached.toNat + 32 * r.notices.stowed.toNat +
            64 * r.notices.haulLimit.toNat + 128 * r.notices.resetHold.toNat), byteOf r.notices.provingResult.toNat] ++
          r.snapshot (s.refOf h)))) ∧
    (s.alertPending = false → s.noticesEnable = false ∨ s.noticePending = false →
      exec .nextNotice s = .next (s.answering s .nextNotice .done [0]))

/-! ### Requests on the line states -/

/-- ARM with a reference (R31, R32, R35, R47): its checks in order, and its effect: ARMED with no command, or, while
contact is active, PAYING with PAY TO given and the pay time running, or with STOP-BRAKE given and the pay time
frozen under berth hold. ARM with a group or berth target (R33): refused whole while the berth is not configured;
else each member is armed as a single reference would be, of two on one station the lower handle, the others are
skipped, and the reply counts both. -/
def Obligations.ArmChecksAndArms : Prop :=
  (∀ (s : State) (ref : Byte) (r : Record), s.port.Awaits → s.names (Ref.ofByte ref) = true →
     s.record? (Ref.ofByte ref).handle = some r →
     (s.configured = false → exec (.arm 0 ref) s = .next (s.answering s .arm .notConfigured [])) ∧
     (s.configured = true →
       (r.state ≠ .prepared → exec (.arm 0 ref) s = .next (s.answering s .arm .badState [])) ∧
       (r.state = .prepared →
         ((s.entry r.station).presence ≠ .present →
           exec (.arm 0 ref) s = .next (s.answering s .arm .stationAbsent [])) ∧
         ((s.entry r.station).presence = .present →
           ((∃ h' r', s.record? h' = some r' ∧ r'.station = r.station ∧ r'.state.engaged = true) →
             exec (.arm 0 ref) s = .next (s.answering s .arm .stationTaken [])) ∧
           ((∀ h' r', s.record? h' = some r' → r'.station = r.station → r'.state.engaged = false) →
             ((s.entry r.station).zeroing = true → exec (.arm 0 ref) s = .next (s.answering s .arm .busy [])) ∧
             ((s.entry r.station).zeroing = false →
               (s.condition .contact = false → exec (.arm 0 ref) s = .next
                 ((s.putRecord (Ref.ofByte ref).handle { r with state := .armed, deadline := .absent }).answering s
                   .arm .done [1, 0])) ∧
               (s.condition .contact = true → exec (.arm 0 ref) s = .next
                 ((s.afterMove (Ref.ofByte ref).handle { r with state := .paying } (.payTo r.lRun)
                   s.config.timeouts.pay).answering s .arm .done [1, 0])))))))) ∧
  (∀ (s : State) (kind value : Byte) (member : Record → Bool), s.port.Awaits → memberTest kind value = some member →
     (s.configured = false → exec (.arm kind value) s = .next (s.answering s .arm .notConfigured [])) ∧
     (s.configured = true → ∃ t : State, s.Dealt t
         (fun h r =>
           if s.arms member h r then
             if s.condition .contact then { r with
               state := .paying
               deadline := if s.berthHold then .frozen s.config.timeouts.pay else .running s.config.timeouts.pay }
             else { r with state := .armed, deadline := .absent }
           else r)
         (fun st =>
           if s.condition .contact then
             (s.armedFor member st).map fun r => if s.berthHold then .stopBrake else .payTo r.lRun
           else none) ∧
       exec (.arm kind value) s = .next (t.answering s .arm .done
         [byteOf (s.armedCount member), byteOf (s.count member - s.armedCount member)])))

/-- DISARM takes an ARMED record to PREPARED and places no command; any other record is refused or skipped (R34). HOLD
LINE takes a TENDING record to HELD: the trip deferred flag is cleared, the proving part removed and a step in flight
kept; any other record is refused or skipped (R40). RESUME takes a HELD record to TENDING if its station is PRESENT
and its last reply shows EYE FAST, with C = 0, D NONE and the slack run 0; the pending part and a step in flight are
kept; any other record is refused or skipped (R41, R62). -/
def Obligations.DisarmHoldLineAndResume : Prop :=
  (ActsOn .disarm .disarm (fun _ r => r.state = .armed) fun r => { r with state := .prepared, deadline := .absent }) ∧
  (ActsOn .holdLine .holdLine (fun _ r => r.state = .tending) fun r =>
     { r with state := .held, tripDeferred := false, proving := none, deadline := .absent }) ∧
  (ActsOn .resume .resume
     (fun s r => r.state = .held && (s.entry r.station).presence = .present &&
       (s.entry r.station).lastReply.any fun f => f.flags.getLsbD 3)
     fun r => { r with state := .tending, c := 0, lean := none, slackRun := 0, deadline := .absent })

/-- SET writes a pending part, unclamped, over any other and changes nothing else; it acts in every state but RELEASING,
REWINDING and STOWED; a value above 8191 refuses it whole with RANGE, after the target checks (R80, R83). -/
def Obligations.SetWritesPendingParts : Prop :=
  (∀ p b : Half, p.toNat ≤ 8191 → b.toNat ≤ 8191 →
    ActsOn (fun kind value => .set kind value p b) .set
      (fun _ r => r.state ≠ .releasing && r.state ≠ .rewinding && r.state ≠ .stowed)
      fun r => { r with pending := some { p := p.toNat, b := b.toNat } }) ∧
  ∀ (s : State) (kind value : Byte) (p b : Half), s.port.Awaits → 8191 < p.toNat ∨ 8191 < b.toNat →
    kind = 0 ∧ s.names (Ref.ofByte value) = true ∨ kind = 1 ∧ value.toNat ≤ 7 ∨ kind = 2 →
    exec (.set kind value p b) s = .next (s.answering s .set .range [])

/-- CLEAR FAULT (R46): refused with BAD STATE unless the record is in FAULT, its station PRESENT, and the last reply
shows EYE FAST without STATION FAULT, when the record enters HELD, or else EYE CLEAR, when it enters REWINDING with
REWIND given, or paused under berth hold. The fault cause goes and the notice set stands. -/
def Obligations.ClearFaultGoesByTheLastReply : Prop :=
  ∀ (s : State) (ref : Byte) (r : Record), s.port.Awaits → s.names (Ref.ofByte ref) = true →
    s.record? (Ref.ofByte ref).handle = some r →
    (r.state ≠ .fault ∨ (s.entry r.station).presence ≠ .present ∨ (s.entry r.station).lastReply = none →
      exec (.clearFault ref) s = .next (s.answering s .clearFault .badState [])) ∧
    (r.state = .fault → (s.entry r.station).presence = .present → ∀ f, (s.entry r.station).lastReply = some f →
      (f.flags.getLsbD 3 = true → f.flags.getLsbD 5 = false → exec (.clearFault ref) s = .next
        ((s.putRecord (Ref.ofByte ref).handle { r with state := .held, faultCause := none, deadline := .absent }).answering
          s .clearFault .done [])) ∧
      (f.flags.getLsbD 3 = false ∨ f.flags.getLsbD 5 = true →
        (f.flags.getLsbD 4 = true → ∃ t,
          (s.afterMove (Ref.ofByte ref).handle { r with state := .rewinding, faultCause := none } .rewind
            s.config.timeouts.stall).MemberLeft t r.group (Ref.ofByte ref) ∧
          exec (.clearFault ref) s = .next (t.answering s .clearFault .done [])) ∧
        (f.flags.getLsbD 4 = false → exec (.clearFault ref) s = .next (s.answering s .clearFault .badState []))))

/-! ### Settings -/

/-- An application of a pending part (R85): P′ clamped to max(10, K + 2)..min(7000, Q − 2), then B′ clamped to 1..the
least of 500, P′/4, Q − P′ − 1 and P′ − K − 1 of the clamped P′; the part is removed and nothing else changes. For a
record within the bounds of R92 the active P lies in the first range and both ranges are non-empty. -/
def Obligations.ApplicationClampsThePendingPart : Prop :=
  ∀ (r : Record) (part : PendingPart),
    r.applied part = { r with p := (r.applied part).p, b := (r.applied part).b, pending := none } ∧
    (r.applied part).p = max (max 10 (r.k + 2)) (min (min 7000 (r.q - 2)) part.p) ∧
    (r.applied part).b = max 1 (min (min (min 500 ((r.applied part).p / 4))
      (min (r.q - (r.applied part).p - 1) ((r.applied part).p - r.k - 1))) part.b) ∧
    (r.TensionOk →
      (max 10 (r.k + 2) ≤ r.p ∧ r.p ≤ min 7000 (r.q - 2)) ∧
      (max 10 (r.k + 2) ≤ (r.applied part).p ∧ (r.applied part).p ≤ min 7000 (r.q - 2)) ∧
      (1 ≤ (r.applied part).p / 4 ∧ 1 ≤ r.q - (r.applied part).p - 1 ∧ 1 ≤ (r.applied part).p - r.k - 1) ∧
      (1 ≤ (r.applied part).b ∧ (r.applied part).b ≤ 500 ∧ (r.applied part).b ≤ (r.applied part).p / 4 ∧
        (r.applied part).b ≤ r.q - (r.applied part).p - 1 ∧ (r.applied part).b ≤ (r.applied part).p - r.k - 1))

/-- APPLY (R84, R86, R87): it acts on a record with a pending part in a state in which SET is permitted, and refuses or
skips any other. The part is applied; a TENDING record's drift count is restarted and its deferred trip cleared; a
HAULING record that is not paused is given HAUL UNTIL with the new P − B; no other command is given. -/
def Obligations.ApplyMakesThePendingPartActive : Prop :=
  (∀ (s : State) (ref : Byte) (r : Record), s.port.Awaits → s.names (Ref.ofByte ref) = true →
    s.record? (Ref.ofByte ref).handle = some r →
    (r.applies = false → exec (.apply 0 ref) s = .next (s.answering s .apply .badState [])) ∧
    (r.applies = true → r.state ≠ .hauling ∨ s.berthHold = true →
      exec (.apply 0 ref) s =
        .next ((s.putRecord (Ref.ofByte ref).handle r.afterApply).answering s .apply .done [1, 0])) ∧
    (r.applies = true → r.state = .hauling → s.berthHold = false →
      exec (.apply 0 ref) s = .next (((s.putRecord (Ref.ofByte ref).handle r.afterApply).giveCommand r.station
        (.haulUntil (r.afterApply.p - r.afterApply.b))).answering s .apply .done [1, 0]))) ∧
  (∀ (s : State) (kind value : Byte) (member : Record → Bool), s.port.Awaits → memberTest kind value = some member →
    s.StationsShared → ∃ t,
      s.Dealt t (fun _ r => if member r && r.applies then r.afterApply else r)
        (fun st => (s.engagedRecord st).bind fun r =>
          if r.state = .hauling && member r && r.applies && !s.berthHold
          then some (.haulUntil (r.afterApply.p - r.afterApply.b)) else none) ∧
      exec (.apply kind value) s = .next (t.answering s .apply .done
        [byteOf (s.count fun r => member r && r.applies), byteOf (s.count fun r => member r && !r.applies)]))

/-! ### Release -/

/-- RELEASE of one line (R97, R98): BAD STATE unless the record is TENDING, HELD or FAULT, then INTERLOCK while the ramp
condition or berth hold is active; else FREE is given, the clear time runs, a step in flight, a proving part and a
fault cause go, the trip deferred flag is cleared, and everything else of the record is kept. -/
def Obligations.ReleaseLetsOneLineGo : Prop :=
  ∀ (s : State) (ref : Byte) (r : Record), s.port.Awaits → s.names (Ref.ofByte ref) = true →
    s.record? (Ref.ofByte ref).handle = some r →
    (r.state ≠ .tending → r.state ≠ .held → r.state ≠ .fault →
      exec (.release 0 ref) s = .next (s.answering s .release .badState [])) ∧
    (r.state = .tending ∨ r.state = .held ∨ r.state = .fault →
      (s.condition .ramp = true ∨ s.berthHold = true →
        exec (.release 0 ref) s = .next (s.answering s .release .interlock [])) ∧
      (s.condition .ramp = false → s.berthHold = false →
        exec (.release 0 ref) s = .next (((s.putRecord (Ref.ofByte ref).handle { r with
            state := .releasing
            deadline := .running s.config.timeouts.clear
            step := none
            tripDeferred := false
            proving := none
            faultCause := none }).giveCommand r.station .free).answering s .release .done [1, 0])))

/-- RELEASE of a group and of the berth (R100, R101, R105): refused whole with INTERLOCK, and for a group whose stage is
not NONE with BAD STATE; else the first stage with members starts, in the group or in every group whose stage is
NONE, and the reply counts its members and every other record of the target. A stage deadline's expiry (R103, R104):
the stage ends, its members left as they are. While an interlock is active a BREAST or ENDS stage leaves the group
waiting; otherwise the next stage with members starts, or the stage becomes NONE. A group with no running stage is
left as it is. A stage whose deadline still has time when the expiry comes, such as one started in the place of the stage
that had it, goes on (the row's `elapsed` is the model's form, log 2). -/
def Obligations.StagedReleaseStartsAndEnds : Prop :=
  (∀ (s : State), s.port.Awaits →
     (∀ g : Fin 8,
       (s.condition .ramp = true ∨ s.berthHold = true →
         exec (.release 1 (byteOf g)) s = .next (s.answering s .release .interlock [])) ∧
       (s.condition .ramp = false → s.berthHold = false → s.groupEntry g ≠ .idle →
         exec (.release 1 (byteOf g)) s = .next (s.answering s .release .badState [])) ∧
       (s.condition .ramp = false → s.berthHold = false → s.groupEntry g = .idle → ∃ t : State,
         s.StagesStarted t (s.groupStarts g) ∧
         exec (.release 1 (byteOf g)) s = .next (t.answering s .release .done
           [byteOf (s.count (·.joinsAny (s.groupStarts g))),
             byteOf (s.count fun r => r.group = g && !r.joinsAny (s.groupStarts g))]))) ∧
     (∀ value : Byte,
       (s.condition .ramp = true ∨ s.berthHold = true →
         exec (.release 2 value) s = .next (s.answering s .release .interlock [])) ∧
       (s.condition .ramp = false → s.berthHold = false → ∃ t : State,
         s.StagesStarted t s.berthStarts ∧
         exec (.release 2 value) s = .next (t.answering s .release .done
           [byteOf (s.count (·.joinsAny s.berthStarts)), byteOf (s.count fun r => !r.joinsAny s.berthStarts)])))) ∧
  (∀ (s : State) (g : Fin 8) (elapsed : Nat), ∃ u : State, s.TimePassed u elapsed ∧
     ((∀ stage members remaining, s.groupEntry g = .running stage members remaining → elapsed < remaining) →
       exec (.stageDeadlineExpiry ⟨g, elapsed⟩) s = .next u) ∧
     ∀ stage members remaining, s.groupEntry g = .running stage members remaining → remaining ≤ elapsed →
       ∃ t, exec (.stageDeadlineExpiry ⟨g, elapsed⟩) s = .next t ∧ u.StageEnded t g stage)

/-- A deadline's expiry (R26, R28, R30, R102): after the time that has passed, a record whose running deadline has no more
than that left enters FAULT with the cause of its state, STOP-BRAKE given, FAULT ENTERED raised, and leaves its stage.
A deadline with more time left does not run out, so an expiry taken after a completion cannot reach the deadline of the
new state or a stall watch set back (R30; the row's `elapsed` is the model's form, log 2); nor does a frozen or absent
deadline, nor that of a state that holds none. A sample showing STATION FAULT (R43, R45): M and L are written and no
other flag is acted on; an ARMED record returns to PREPARED, a record in FAULT is kept, and any other engaged record
enters FAULT with cause STATION FAULT, a step in flight abandoned. -/
def Obligations.FailuresEnterFault : Prop :=
  (∀ (s : State) (h : Fin 32) (elapsed : Nat), ∃ u : State, s.TimePassed u elapsed ∧
     (s.record? h = none → exec (.deadlineExpiry ⟨h, elapsed⟩) s = .next u) ∧
     ∀ r, s.record? h = some r →
       ((∀ n, r.deadline = .running n → elapsed < n) ∨ r.state.timed = false →
         exec (.deadlineExpiry ⟨h, elapsed⟩) s = .next u) ∧
       ∀ n cause, r.deadline = .running n → n ≤ elapsed →
         r.state = .paying ∧ cause = .payTimeout ∨ r.state = .makingFast ∧ cause = .fastTimeout ∨
           r.state = .hauling ∧ cause = .haulTimeout ∨ r.state = .releasing ∧ cause = .clearTimeout ∨
           r.state = .rewinding ∧ cause = .rewindStall →
         ∃ t, exec (.deadlineExpiry ⟨h, elapsed⟩) s = .next t ∧
           (u.afterFault h r cause).MemberLeft t r.group (s.refOf h)) ∧
  (∀ (s : State) (inTime : Bool) (chars : List LinkChar) (slot : LinkSlot) (f : Frame) (extra : List LinkChar)
     (h : Fin 32) (r : Record) (s' : State) (r' : Record), s.Receives inTime chars slot f extra →
     s.engagedOn s.scan.station = some h → s.record? h = some r → f.flags.getLsbD 5 = true →
     s' = s.afterReply slot f extra → r' = r.sampled f →
     (r.state = .armed → exec (.slotEnd inTime chars) s =
       .next (s'.putRecord h { r' with state := .prepared, deadline := .absent })) ∧
     (r.state = .fault → exec (.slotEnd inTime chars) s = .next (s'.putRecord h r')) ∧
     (r.state.fails = true → ∃ t, exec (.slotEnd inTime chars) s = .next t ∧
       (s'.afterFault h r' .stationFault).MemberLeft t r.group (s.refOf h)))

/-! ### Station requests and proving requests -/

/-- STATION QUERY (R121, R129, section 11.7): refused with RANGE for a station above 23 and with BAD REQUEST for a kind
above 4, with one of the two where both hold (log 9); else the kind asked for becomes the pending kind of a mapped
station, nothing else changes, and the 12-byte report shows the entry with the pending kind that the request leaves.
ZERO's checks in order and its effect (R132): zeroing is set and ZERO given to the command slot, where it is the
command waiting; no record changes. That the bits of the report to which section 11.7 gives no meaning (bit 7 of byte 1,
bits 7 and 3 to 2 of byte 8) read 0 is the model's choice (log 16). -/
def Obligations.StationQueryAndZero : Prop :=
  ((∀ (s : State) (station kind : Byte), s.port.Awaits →
     (23 < station.toNat → kind.toNat ≤ 4 →
       exec (.stationQuery station kind) s = .next (s.answering s .stationQuery .range [])) ∧
     (station.toNat ≤ 23 → 4 < kind.toNat →
       exec (.stationQuery station kind) s = .next (s.answering s .stationQuery .badRequest [])) ∧
     (23 < station.toNat → 4 < kind.toNat → ∃ result, (result = .range ∨ result = .badRequest) ∧
       exec (.stationQuery station kind) s = .next (s.answering s .stationQuery result []))) ∧
   ∀ (s : State) (st : Fin 24) (kind : Byte) (left : Option DiagKind), s.port.Awaits → kind.toNat ≤ 4 →
     (kind = 0 ∨ s.mapped st = false → left = (s.entry st).pendingKind) →
     (kind ≠ 0 → s.mapped st = true → left.map DiagKind.code = some kind.toNat) →
     ∃ body, exec (.stationQuery (byteOf st) kind) s =
         .next ((s.putEntry st { s.entry st with pendingKind := left }).answering s .stationQuery .done body) ∧
       body.length = 12 ∧ byteAt body 0 = byteOf st ∧
       ((byteAt body 1).extractLsb' 0 2).toNat = (s.entry st).presence.code ∧
       (byteAt body 1).extractLsb' 2 2 = BitVec.ofNat 2 (s.entry st).missCount ∧
       (byteAt body 1).getLsbD 4 = (s.entry st).toggle ∧ (byteAt body 1).getLsbD 5 = (s.entry st).zeroing ∧
       (byteAt body 1).getLsbD 6 = (s.entry st).lastReply.isSome ∧ (byteAt body 1).getLsbD 7 = false ∧
       byteAt body 2 = byteOf (((s.entry st).command.map Command.code).getD 0) ∧
       byteAt body 3 = ((s.entry st).lastReply.map Frame.flags).getD 0 ∧
       halfAt body 4 = BitVec.ofNat 16 (((s.entry st).lastReply.map Frame.tension).getD 0) ∧
       halfAt body 6 = BitVec.ofNat 16 (((s.entry st).lastReply.map Frame.length).getD 0) ∧
       byteAt body 8 = byteOf ((s.entry st).diagState.code + 16 * ((s.entry st).diagKind.map DiagKind.code).getD 0) ∧
       halfAt body 9 = (s.entry st).diagValue ∧
       byteAt body 11 = byteOf ((left.map DiagKind.code).getD 0)) ∧
  ((∀ (s : State) (station : Byte), s.port.Awaits → 23 < station.toNat →
     exec (.zero station) s = .next (s.answering s .zero .range [])) ∧
   ∀ (s : State) (st : Fin 24), s.port.Awaits →
     (s.configured = false → exec (.zero (byteOf st)) s = .next (s.answering s .zero .notConfigured [])) ∧
     (s.configured = true →
       ((s.entry st).presence ≠ .present → exec (.zero (byteOf st)) s = .next (s.answering s .zero .stationAbsent [])) ∧
       ((s.entry st).presence = .present →
         ((s.entry st).zeroing = true → exec (.zero (byteOf st)) s = .next (s.answering s .zero .busy [])) ∧
         ((s.entry st).zeroing = false →
           ((∃ h r, s.record? h = some r ∧ r.station = st ∧ r.state.engaged = true) →
             exec (.zero (byteOf st)) s = .next (s.answering s .zero .badState [])) ∧
           ((∀ h r, s.record? h = some r → r.station = st → r.state.engaged = false) →
             ((s.entry st).command = some .free ∨ (∃ f, (s.entry st).lastReply = some f ∧ f.flags.getLsbD 1 = true) →
               exec (.zero (byteOf st)) s = .next (s.answering s .zero .busy [])) ∧
             ((s.entry st).command ≠ some .free → (∀ f, (s.entry st).lastReply = some f → f.flags.getLsbD 1 = false) →
               ∃ t, t = (s.putEntry st { s.entry st with zeroing := true }).giveCommand st .zero ∧
                 t.entry st = { s.entry st with zeroing := true, command := some .zero } ∧
                 exec (.zero (byteOf st)) s = .next (t.answering s .zero .done [])))))))

/-- PROVE START's checks in order and its effect (R150): the settings are clamped, the part is created in PUSH with
counter, offset and last result 0 and first in-band NONE, and nothing else changes. PROVE RELEASE takes a proving
part from DWELL to SETTLE and PROVE STOP removes a proving part, in any phase; both refuse other records with BAD
STATE and change nothing else (R153, R154, R156). -/
def Obligations.ProvingRequestsCheckAndAct : Prop :=
  (∀ (s : State) (ref push : Byte) (settle : Half) (increment direction dwell : Byte) (r : Record), s.port.Awaits →
     s.names (Ref.ofByte ref) = true → s.record? (Ref.ofByte ref).handle = some r →
     (1 < direction.toNat ∨ 1 < dwell.toNat → exec (.proveStart ref push settle increment direction dwell) s =
       .next (s.answering s .proveStart .badRequest [])) ∧
     (direction.toNat ≤ 1 → dwell.toNat ≤ 1 →
       (r.state ≠ .tending ∨ r.proving ≠ none → exec (.proveStart ref push settle increment direction dwell) s =
         .next (s.answering s .proveStart .badState [])) ∧
       (r.state = .tending → r.proving = none → exec (.proveStart ref push settle increment direction dwell) s =
         .next ((s.putRecord (Ref.ofByte ref).handle { r with proving := some {
           pushCount := max 1 (min 63 push.toNat)
           settleCount := max 8 (min 1000 settle.toNat)
           increment := max 1 (min 100 increment.toNat)
           raises := decide (direction = 0)
           dwells := decide (dwell = 1)
           phase := .push, counter := 0, offset := 0, lastSteps := 0, lastInBand := none } }).answering s
             .proveStart .done [])))) ∧
  (∀ (s : State) (ref : Byte) (r : Record), s.port.Awaits → s.names (Ref.ofByte ref) = true →
     s.record? (Ref.ofByte ref).handle = some r →
     (r.proving = none →
       exec (.proveRelease ref) s = .next (s.answering s .proveRelease .badState []) ∧
       exec (.proveStop ref) s = .next (s.answering s .proveStop .badState [])) ∧
     ∀ p, r.proving = some p →
       (p.phase ≠ .dwell → exec (.proveRelease ref) s = .next (s.answering s .proveRelease .badState [])) ∧
       (p.phase = .dwell → exec (.proveRelease ref) s = .next ((s.putRecord (Ref.ofByte ref).handle
         { r with proving := some { p with phase := .settle 0 none, counter := 0, offset := 0 } }).answering s
           .proveRelease .done [])) ∧
       exec (.proveStop ref) s = .next
         ((s.putRecord (Ref.ofByte ref).handle { r with proving := none }).answering s .proveStop .done []))

/-! ### Resets -/

/-- A power-on reset (R1, R20, R22, R96, R116, R135, R136, R137, R141, R143, R160, R168 to R175): every slot FREE at
generation 0, the configuration at its defaults and the flag clear, and every block at its reset values. (That the
levels outside on the pins, the data pins, the queue and the count of log 8 stand is the model's choice, logs 6, 7,
15.) -/
def Obligations.PowerOnResetLosesEverything : Prop :=
  ∀ s : State, ∃ t : State, exec .powerOnReset s = .next t ∧
    (∀ h, t.record? h = none ∧ t.generation h = 0) ∧
    t.config.timeouts.pay = 900 ∧ t.config.timeouts.fast = 1200 ∧ t.config.timeouts.haul = 600 ∧
    t.config.timeouts.clear = 300 ∧ t.config.timeouts.stall = 100 ∧ t.config.timeouts.stage = 450 ∧
    (∀ st, t.mapped st = false) ∧ (∀ l, t.lineConfig l = { function := .generalIn, activeLow := false }) ∧
    t.configured = false ∧
    (∀ st, (t.entry st).presence = .absent ∧ (t.entry st).missCount = 0 ∧ (t.entry st).command = none ∧
      (t.entry st).toggle = false ∧ (t.entry st).lastReply = none ∧ (t.entry st).diagState = .empty ∧
      (t.entry st).diagKind = none ∧ (t.entry st).diagValue = 0 ∧ (t.entry st).pendingKind = none ∧
      (t.entry st).zeroing = false) ∧
    t.scan.slot = none ∧ (∀ g, t.groupEntry g = .idle) ∧
    (∀ l, t.line l = { latch := false, qualified := none, pin := (s.line l).pin, qualifying := true }) ∧
    t.softwareHold = false ∧ t.emergencyLatch = false ∧ t.noticesEnable = false ∧
    t.port = { mailbox := [], executing := none, reply := .empty, overrun := false, posted := none,
               replyReadyEnable := false, dataOut := s.port.dataOut } ∧
    t.holdEnds = s.holdEnds ∧ t.pending = s.pending

/-- A warm reset (R21, R51, R78, R93, R96, R116, R135, R136, R137, R142, R143, R149, R159, R160, R168 to R175): slots,
generations, configuration and flag are kept; every record keeps its identity, lengths, tensions, T, R, S, totals and
pending part, changes state as R21 says, and loses the rest; RESET HOLD alone is left, on the records moved to HELD;
every other block takes its reset values. That the levels outside on the pins (log 6), the byte that location 0 last gave
(log 7) and the count of ends of hold (log 8) are kept is the model's choice. -/
def Obligations.WarmResetKeepsTheTable : Prop :=
  ∀ s : State, ∃ t : State, exec .warmReset s = .next t ∧
    t = { s with
      table := t.table, stations := t.stations, scan := { station := 0, slot := none }, groups := t.groups,
      lines := t.lines, softwareHold := false, emergencyLatch := false, noticesEnable := false, port := t.port } ∧
    (∀ h, t.generation h = s.generation h) ∧
    (∀ h, t.record? h = (s.record? h).map fun r => { r with
      state := (match r.state with
        | .paying | .makingFast | .hauling | .tending => .held
        | .armed => .prepared
        | .releasing | .rewinding => .fault
        | kept => kept)
      faultCause := (if r.state = .releasing ∨ r.state = .rewinding then some .reset else r.faultCause)
      deadline := .absent, c := 0, lean := none, step := none, tripDeferred := false, slackRun := 0
      overload := false, payLimit := false, haulLimit := false, proving := none
      notices := { NoticeSet.empty with
        resetHold :=
          decide (r.state = .paying ∨ r.state = .makingFast ∨ r.state = .hauling ∨ r.state = .tending) } }) ∧
    (∀ st, t.entry st = { StationEntry.reset with presence := if s.mapped st then .present else .absent }) ∧
    (∀ g, t.groupEntry g = .idle) ∧
    (∀ l, t.line l = { latch := false, qualified := none, pin := (s.line l).pin,
                       qualifying := decide ((s.lineConfig l).function ≠ .generalOut) }) ∧
    t.port = { mailbox := [], executing := none, reply := .empty, overrun := false, posted := none,
               replyReadyEnable := false, dataOut := s.port.dataOut }

/-! ### The station link -/

/-- A slot begins (R114, R115, R116, R118, R130, section 7.4): on a configured berth the scan's next station is sent its
waiting command with the entry's toggle, else its pending diagnostic kind, which is removed and waited for, else a
bare poll; a station outside the map is sent nothing. The address character carries slot kind and station. While the
berth is not configured nothing begins. That the silent slot of a station outside the map is begun like any other, and
that nothing begins while a slot is in progress, is the model's choice (log 13). -/
def Obligations.SlotSendsByTheStationsEntry : Prop :=
  ∀ (s : State) (st : Fin 24) (e : StationEntry), s.scan.station = st → s.entry st = e →
    (s.configured = false ∨ s.scan.slot ≠ none → exec .slotStart s = .next s) ∧
    (s.configured = true → s.scan.slot = none →
      (s.mapped st = false → exec .slotStart s =
        .next { s with scan := { station := st, slot := some { kind := .silent, sent := [], replaced := false } } }) ∧
      (∀ c, s.mapped st = true → e.command = some c → exec .slotStart s =
        .next { s with scan := { station := st, slot := some {
          kind := .command c e.toggle
          sent := linkChar true (byteOf (64 + st)) :: (c.dataBytes e.toggle).map (linkChar false)
          replaced := false } } }) ∧
      (∀ k, s.mapped st = true → e.command = none → e.pendingKind = some k → exec .slotStart s =
        .next { s.putEntry st { e with pendingKind := none, diagState := .waiting, diagKind := some k } with
          scan := { station := st, slot := some {
            kind := .query k
            sent := [linkChar true (byteOf (96 + st)), linkChar false (byteOf k.code)]
            replaced := false } } }) ∧
      (s.mapped st = true → e.command = none → e.pendingKind = none → exec .slotStart s =
        .next { s with scan := { station := st, slot := some {
          kind := .poll, sent := [linkChar true (byteOf (32 + st))], replaced := false } } }))

/-- A miss (R44, R123, R130, R133): it is counted at a PRESENT station, a QUERY's kind becomes pending again, and the
third makes the station LOST, clears zeroing and discards a waiting ZERO; the loss returns an ARMED record to
PREPARED, keeps a record in FAULT, and takes any other engaged record to FAULT. The end of a slot moves the scan on to
the next station (R115, R116). A silent slot is neither a reply nor a miss (R120). That the slot of a station no longer
in the map is neither is the model's inference (log 11, DEDUCED); that a silent slot is ended like any other, and that
without a slot in progress nothing ends, is its choice (log 13). -/
def Obligations.ThirdMissLosesTheStation : Prop :=
  ∀ (s : State) (inTime : Bool) (chars : List LinkChar),
    (s.scan.slot = none → exec (.slotEnd inTime chars) s = .next s) ∧
    (∀ slot, s.scan.slot = some slot → slot.kind = .silent ∨ s.mapped s.scan.station = false →
      exec (.slotEnd inTime chars) s = .next s.slotOver) ∧
    ∀ slot e asked, s.Misses inTime chars slot → e = s.entry s.scan.station →
      asked = (match slot.kind with
        | .query k => some (e.pendingKind.getD k)
        | _ => e.pendingKind) →
      (e.presence ≠ .present → exec (.slotEnd inTime chars) s =
        .next (s.slotOver.putEntry s.scan.station { e with pendingKind := asked })) ∧
      (e.presence = .present → e.missCount < 2 → exec (.slotEnd inTime chars) s =
        .next (s.slotOver.putEntry s.scan.station { e with pendingKind := asked, missCount := e.missCount + 1 })) ∧
      (e.presence = .present → 2 ≤ e.missCount → ∀ lost, lost = s.slotOver.putEntry s.scan.station { e with
          pendingKind := asked, presence := .lost, missCount := 3, zeroing := false
          command := if e.command = some .zero then none else e.command } →
        (s.engagedOn s.scan.station = none → exec (.slotEnd inTime chars) s = .next lost) ∧
        ∀ h r, s.engagedOn s.scan.station = some h → s.record? h = some r →
          (r.state = .armed → exec (.slotEnd inTime chars) s =
            .next (lost.putRecord h { r with state := .prepared, deadline := .absent })) ∧
          (r.state = .fault → exec (.slotEnd inTime chars) s = .next lost) ∧
          (r.state.fails = true → ∃ t, exec (.slotEnd inTime chars) s = .next t ∧
            (lost.afterFault h r .stationLost).MemberLeft t r.group (s.refOf h)))

/-- A good reply at the station table (R122, R125, R126, R127, R130, R133): the station is PRESENT with no misses and
this last reply; the command sent is delivered if it still waits, not replaced, and the reply shows its toggle; with
the slot empty the toggle is set opposite to the reply's; ZERO DONE then clears zeroing; an intact diagnostic frame
of the kind sent fills the diagnostic slot and any other makes the kind pending again. A station without an engaged
record gives its reply to no record. -/
def Obligations.GoodReplyUpdatesTheStation : Prop :=
  ∀ (s : State) (inTime : Bool) (chars : List LinkChar) (slot : LinkSlot) (f : Frame) (extra : List LinkChar)
    (e : StationEntry), s.Receives inTime chars slot f extra → e = s.entry s.scan.station →
    (s.engagedOn s.scan.station = none → exec (.slotEnd inTime chars) s = .next (s.afterReply slot f extra)) ∧
    ∀ e', e' = (s.afterReply slot f extra).entry s.scan.station →
      e'.presence = .present ∧ e'.missCount = 0 ∧ e'.lastReply = some f ∧
      (∀ c toggle, slot.kind = .command c toggle → slot.replaced = false → f.flags.getLsbD 7 = toggle →
        e'.command = none) ∧
      ((∀ c toggle, slot.kind = .command c toggle → slot.replaced = true ∨ f.flags.getLsbD 7 ≠ toggle) →
        e'.command = e.command) ∧
      (e'.command = none → e'.toggle = !f.flags.getLsbD 7) ∧ (e'.command ≠ none → e'.toggle = e.toggle) ∧
      (e'.command = none → f.flags.getLsbD 6 = true → e'.zeroing = false) ∧
      (e'.command ≠ none ∨ f.flags.getLsbD 6 = false → e'.zeroing = e.zeroing) ∧
      ((∀ k, slot.kind ≠ .query k) → e'.diagState = e.diagState ∧ e'.diagKind = e.diagKind ∧
        e'.diagValue = e.diagValue ∧ e'.pendingKind = e.pendingKind) ∧
      ∀ k, slot.kind = .query k →
        (∀ value, diagnosticFrame extra = some (byteOf k.code, value) → e'.diagState = .filled ∧ e'.diagKind = some k ∧
          e'.diagValue = value ∧ e'.pendingKind = e.pendingKind) ∧
        ((∀ value, diagnosticFrame extra ≠ some (byteOf k.code, value)) → e'.diagState = e.diagState ∧
          e'.diagKind = e.diagKind ∧ e'.diagValue = e.diagValue ∧ e'.pendingKind = some (e.pendingKind.getD k))

/-- The sample of a good reply in the states that wait for a station (R24, R25, R29, R36 to R39, R47, R49, R88, R106 to
R108): M and L are written; the flag that completes the state, in a fresh sample and not under a pause, moves the
record on, with the command and the deadline of its new state; any other sample moves nothing. -/
def Obligations.FreshCompletionMovesTheRecordOn : Prop :=
  ∀ (s : State) (inTime : Bool) (chars : List LinkChar) (slot : LinkSlot) (f : Frame) (extra : List LinkChar)
    (h : Fin 32) (r : Record) (s' : State) (r' : Record), s.Receives inTime chars slot f extra →
    s.engagedOn s.scan.station = some h → s.record? h = some r → f.flags.getLsbD 5 = false →
    s' = s.afterReply slot f extra → r' = r.sampled f →
    (r.state = .armed ∨ r.state = .fault ∨
        (r.state = .paying ∨ r.state = .hauling ∨ r.state = .rewinding) ∧ s.berthHold = true ∨
        (r.state = .paying ∨ r.state = .makingFast ∨ r.state = .hauling ∨ r.state = .releasing ∨ r.state = .rewinding) ∧
          (s'.entry s.scan.station).command ≠ none →
      exec (.slotEnd inTime chars) s = .next (s'.putRecord h r')) ∧
    ((s'.entry s.scan.station).command = none →
      (r.state = .paying → s.berthHold = false → exec (.slotEnd inTime chars) s = .next (s'.putRecord h
        (if f.flags.getLsbD 2 then { r' with state := .makingFast, deadline := .running s.config.timeouts.fast }
         else r'))) ∧
      (r.state = .makingFast → exec (.slotEnd inTime chars) s = .next
        (if f.flags.getLsbD 3 then
          s'.afterMove h { r' with state := .hauling } (.haulUntil (r.p - r.b)) s.config.timeouts.haul
         else s'.putRecord h r')) ∧
      (r.state = .hauling → s.berthHold = false →
        (f.flags.getLsbD 0 = true → r.p - r.b ≤ f.tension →
          (r.pending = none → exec (.slotEnd inTime chars) s = .next (s'.putRecord h { r' with
            state := .tending, deadline := .absent, c := 0, lean := none, slackRun := 0
            notices := { r.notices with tendingReached := true } })) ∧
          (∀ part, r.pending = some part → exec (.slotEnd inTime chars) s = .next (s'.putRecord h
            { r'.applied part with
              state := .tending, deadline := .absent, c := 0, lean := none, slackRun := 0
              notices := { r.notices with tendingReached := true } }))) ∧
        (f.flags.getLsbD 0 = false ∨ f.tension < r.p - r.b →
          (r.lMin < f.length → exec (.slotEnd inTime chars) s = .next (s'.putRecord h r')) ∧
          (f.length ≤ r.lMin → ∃ t, exec (.slotEnd inTime chars) s = .next t ∧
            (s'.afterFault h r' .haulShort).MemberLeft t r.group (s.refOf h)))) ∧
      (r.state = .releasing →
        (f.flags.getLsbD 4 = false → exec (.slotEnd inTime chars) s = .next (s'.putRecord h r')) ∧
        (f.flags.getLsbD 4 = true → ∃ t, exec (.slotEnd inTime chars) s = .next t ∧
          (s'.afterMove h { r' with state := .rewinding, faultCause := none } .rewind
            s.config.timeouts.stall).MemberLeft t r.group (s.refOf h))) ∧
      (r.state = .rewinding → s.berthHold = false → exec (.slotEnd inTime chars) s = .next (s'.putRecord h
        (if f.flags.getLsbD 2 = true ∧ f.length = 0 then
          { r' with state := .stowed, deadline := .absent, notices := { r.notices with stowed := true } }
         else if f.length < r.len then { r' with deadline := .running s.config.timeouts.stall }
         else r'))))

/-! ### Tension regulation -/

/-- A sample given to a HELD record (R55, R74, R77): M and L are written; a fresh MOVE DONE completes a step in flight,
which is counted in the total of its direction; nothing is voted. The order of a sample given to a TENDING record
(R53, R54, R58, R59, R63, R73, R151): a fresh MOVE DONE completes a step in flight; the overload episode is updated;
then, with no step in flight on a configured berth, the slack run is counted and its fifth sample enters FAULT with
SLACK; else a PUSH moves the offset, and a sample outside the band votes; a vote that brings C to T trips; and the
sample is counted in its proving phase. What each part does to the record is said by the statements that follow. -/
def Obligations.RegulatedSamplesTakeTheirSequence : Prop :=
  (∀ (s : State) (inTime : Bool) (chars : List LinkChar) (slot : LinkSlot) (f : Frame) (extra : List LinkChar)
     (h : Fin 32) (r : Record) (s' : State) (r' : Record), s.Receives inTime chars slot f extra →
     s.engagedOn s.scan.station = some h → s.record? h = some r → r.state = .held → f.flags.getLsbD 5 = false →
     s' = s.afterReply slot f extra → r' = r.sampled f →
     (r.step = none ∨ f.flags.getLsbD 2 = false ∨ (s'.entry s.scan.station).command ≠ none →
       exec (.slotEnd inTime chars) s = .next (s'.putRecord h r')) ∧
     (∀ amount, r.step = some { dir := .pay, amount := amount } → f.flags.getLsbD 2 = true →
       (s'.entry s.scan.station).command = none → exec (.slotEnd inTime chars) s =
         .next (s'.putRecord h { r' with step := none, stepsPaid := min 65535 (r.stepsPaid + 1) })) ∧
     (∀ amount, r.step = some { dir := .haul, amount := amount } → f.flags.getLsbD 2 = true →
       (s'.entry s.scan.station).command = none → exec (.slotEnd inTime chars) s =
         .next (s'.putRecord h { r' with step := none, stepsHauled := min 65535 (r.stepsHauled + 1) }))) ∧
  (∀ (s : State) (inTime : Bool) (chars : List LinkChar) (slot : LinkSlot) (f : Frame) (extra : List LinkChar)
     (h : Fin 32) (r : Record) (s' : State) (r1 r2 : Record), s.Receives inTime chars slot f extra →
     s.engagedOn s.scan.station = some h → s.record? h = some r → r.state = .tending → f.flags.getLsbD 5 = false →
     s' = s.afterReply slot f extra →
     r1 = (if (s'.entry s.scan.station).command = none ∧ f.flags.getLsbD 2 = true
       then (r.sampled f).completeStep else r.sampled f) →
     r2 = r1.noteOverload →
     (r2.step ≠ none ∨ s.configured = false → exec (.slotEnd inTime chars) s = .next (s'.putRecord h r2)) ∧
     (r2.step = none → s.configured = true →
       (r2.countSlack.slackRun = 5 → ∃ t, exec (.slotEnd inTime chars) s = .next t ∧
         (s'.afterFault h r2.countSlack .slack).MemberLeft t r.group (s.refOf h)) ∧
       (r2.countSlack.slackRun ≠ 5 → ∀ r3, r3 = r2.countSlack.movePush →
         (r3.error.natAbs ≤ r3.b → exec (.slotEnd inTime chars) s = .next (s'.putRecord h (r3.countProving true))) ∧
         (r3.b < r3.error.natAbs → ∀ r4, r4 = r3.voted r3.voteDir r3.voteWeight →
           (r4.c ≠ r4.t → exec (.slotEnd inTime chars) s = .next (s'.putRecord h (r4.countProving false))) ∧
           (r4.c = r4.t → exec (.slotEnd inTime chars) s = .next
             ((s'.putRecord h ((r4.afterTrip s.berthHold (s'.stepBlocked s.scan.station)).countProving false)).giving
               s.scan.station (r4.tripCommand s.berthHold (s'.stepBlocked s.scan.station))))))))

/-- The effective setpoint (R56): P plus the proving offset, brought into K + B + 1..Q − B − 1; for a record within the
bounds of R92 it lies there, it is P without a proving part, a sample at or below K lies more than B below it, and a
sample at or above Q more than B above it. -/
def Obligations.EffectiveSetpointStaysBetweenTheLimits : Prop :=
  ∀ r : Record,
    (r.proving = none → r.effective =
      max ((r.k : Int) + r.b + 1) (min ((r.q : Int) - r.b - 1) (r.p : Int))) ∧
    (∀ p, r.proving = some p → r.effective =
      max ((r.k : Int) + r.b + 1) (min ((r.q : Int) - r.b - 1) ((r.p : Int) + p.offset))) ∧
    (r.TensionOk →
      ((r.k : Int) + r.b + 1 ≤ r.effective ∧ r.effective ≤ (r.q : Int) - r.b - 1) ∧
      (r.proving = none → r.effective = r.p) ∧
      (∀ m : Nat, m ≤ r.k → (m : Int) < r.effective - r.b) ∧
      (∀ m : Nat, r.q ≤ m → r.effective + r.b < (m : Int)))

/-- The overload episode and the slack run of a record at a sample, and the totals at a completed step (R57, R58, R73,
R77). A proving part at a voted sample (R152, R153, R154): a PUSH first moves the offset by the increment and clamps
it to the range K + B + 1 − P..Q − B − 1 − P, which contains 0; after the vote PUSH counts up to its push count and
becomes DWELL or SETTLE, DWELL counts and does not end, and SETTLE notes the first sample in the band, counts up to
its settle count, and then stores its tallies, raises PROVING RESULT and becomes PUSH. A step issued in SETTLE adds one to
its tally of steps, at most 255, and one issued in PUSH or DWELL changes nothing of the part (R151). -/
def Obligations.EpisodesTotalsAndProvingPhases : Prop :=
  (∀ r : Record,
     (r.q ≤ r.m → r.overload = false →
       r.noteOverload = { r with overload := true, notices := { r.notices with overload := true } }) ∧
     (r.q ≤ r.m → r.overload = true → r.noteOverload = r) ∧
     (r.m < r.q - r.b → r.noteOverload = { r with overload := false }) ∧
     (r.q - r.b ≤ r.m → r.m < r.q → r.noteOverload = r) ∧
     (r.m ≤ r.k → r.countSlack = { r with slackRun := min 5 (r.slackRun + 1) }) ∧
     (r.k < r.m → r.countSlack = { r with slackRun := 0 }) ∧
     (r.step = none → r.completeStep = r) ∧
     (∀ amount, r.step = some { dir := .pay, amount := amount } →
       r.completeStep = { r with step := none, stepsPaid := min 65535 (r.stepsPaid + 1) }) ∧
     (∀ amount, r.step = some { dir := .haul, amount := amount } →
       r.completeStep = { r with step := none, stepsHauled := min 65535 (r.stepsHauled + 1) })) ∧
  (∀ (r : Record) (p : ProvingPart) (inBand : Bool), r.proving = some p →
     (p.phase = .push →
       r.movePush = { r with proving := some { p with
         offset := max ((r.k : Int) + r.b + 1 - r.p) (min ((r.q : Int) - r.b - 1 - r.p)
           (if p.raises then p.offset + p.increment else p.offset - p.increment)) } } ∧
       (p.counter + 1 < p.pushCount →
         r.countProving inBand = { r with proving := some { p with counter := p.counter + 1 } }) ∧
       (p.pushCount ≤ p.counter + 1 → p.dwells = true →
         r.countProving inBand = { r with proving := some { p with phase := .dwell, counter := 0 } }) ∧
       (p.pushCount ≤ p.counter + 1 → p.dwells = false → r.countProving inBand = { r with
         proving := some { p with phase := .settle 0 none, counter := 0, offset := 0 } })) ∧
     (p.phase ≠ .push → r.movePush = r) ∧
     (p.phase = .dwell →
       r.countProving inBand = { r with proving := some { p with counter := min 65535 (p.counter + 1) } }) ∧
     (∀ steps first kept, p.phase = .settle steps first →
       kept = (match first with
         | some n => some n
         | none => if inBand then some p.counter else none) →
       (p.counter + 1 < p.settleCount → r.countProving inBand =
         { r with proving := some { p with phase := .settle steps kept, counter := p.counter + 1 } }) ∧
       (p.settleCount ≤ p.counter + 1 → r.countProving inBand = { r with
         notices := { r.notices with provingResult := true }
         proving := some { p with phase := .push, counter := 0, lastSteps := steps, lastInBand := kept } })) ∧
     (∀ steps first, p.phase = .settle steps first →
       p.countIssued = { p with phase := .settle (min 255 (steps + 1)) first }) ∧
     (p.phase = .push ∨ p.phase = .dwell → p.countIssued = p) ∧
     (r.TensionOk → ((r.k : Int) + r.b + 1 - r.p ≤ 0 ∧ 0 ≤ (r.q : Int) - r.b - 1 - r.p)))

/-- The weight of a vote (R60): by the excess x of the error over B, 1 + floor((x − 1)/B) and at most 8 outside an
overload episode, row by row as the table has it, and 8 during one; always 1 to 8. A vote cast during an episode is a
PAY vote. -/
def Obligations.VoteWeightFollowsTheExcess : Prop :=
  ∀ (r : Record) (x : Nat), r.TensionOk → r.error.natAbs = r.b + x → 1 ≤ x →
    (r.overload = false →
      r.voteWeight = min 8 (1 + (x - 1) / r.b) ∧
      (∀ n, n ≤ 6 → n * r.b < x → x ≤ (n + 1) * r.b → r.voteWeight = n + 1) ∧
      (7 * r.b < x → r.voteWeight = 8)) ∧
    (r.overload = true → r.voteWeight = 8) ∧
    (1 ≤ r.voteWeight ∧ r.voteWeight ≤ 8) ∧
    (r.noteOverload.overload = true → r.voteDir = .pay)

/-- The drift count and the lean after a vote, row by row (R61): every disagreeing vote clears the trip deferred flag, a
flip ends both limit episodes, an agreeing vote at T stays at T, and nothing else changes. -/
def Obligations.VoteUpdatesDriftAndLean : Prop :=
  ∀ (r : Record) (dir : Dir) (w : Nat),
    (r.lean = none → r.voted dir w = { r with c := min r.t w, lean := some dir }) ∧
    (r.lean = some dir → r.voted dir w = { r with c := min r.t (r.c + w) }) ∧
    (r.lean = some dir → r.c = r.t → (r.voted dir w).c = r.t) ∧
    (∀ other, r.lean = some other → other ≠ dir →
      (w < r.c → r.voted dir w = { r with c := r.c - w, tripDeferred := false }) ∧
      (w = r.c → r.voted dir w = { r with c := 0, tripDeferred := false }) ∧
      (r.c < w → r.voted dir w = { r with
        c := min r.t (w - r.c), lean := some dir, tripDeferred := false, payLimit := false, haulLimit := false }))

/-- The command slot arbitration (R94): over a waiting FREE only a FREE is placed, over a waiting STOP-BRAKE everything
but a step; a command that is not placed changes nothing, and one that is placed takes the slot, keeping the toggle
(R126), and is not the command of a slot in progress. (R94 has no row for a waiting ZERO, log 10.) -/
def Obligations.CommandSlotArbitration : Prop :=
  ∀ (s : State) (st : Fin 24) (c : Command),
    ((s.entry st).command = some .free → c ≠ .free → s.giveCommand st c = s) ∧
    ((s.entry st).command = some .stopBrake → (∃ n, c = .stepPay n ∨ c = .stepHaul n) → s.giveCommand st c = s) ∧
    ((s.entry st).command ≠ some .zero →
      ((s.entry st).command = some .free → c = .free) →
      ((s.entry st).command = some .stopBrake → ∀ n, c ≠ .stepPay n ∧ c ≠ .stepHaul n) →
      s.giveCommand st c = { s.putEntry st { s.entry st with command := some c } with
        scan := if s.scan.station = st
          then { s.scan with slot := s.scan.slot.map fun slot => { slot with replaced := true } } else s.scan })

/-! ### Encodings -/

/-- The reference byte, the request codes and the bodies of the requests read back as written, with every operand at
every value (sections 11.6 and 11.7). -/
def Obligations.RequestOperandsRoundTrip : Prop :=
  (∀ ref : Ref, Ref.ofByte ref.byte = ref) ∧ (∀ b : Byte, (Ref.ofByte b).byte = b) ∧
  (∀ c : RequestCode, RequestCode.ofByte c.byte = some c) ∧
  (∀ (b : Byte) (c : RequestCode), RequestCode.ofByte b = some c → c.byte = b) ∧
  (∀ (i : Instr) (code : Byte) (body : List Byte), i.message = some (code, body) → i.wellFormed = true →
    (headerRequest code body.length = none ↔ ∃ c b, i = .badRequestHeader c b)) ∧
  (∀ body : BerthBody, BerthBody.ofBytes body.bytes = body ∧ body.bytes.length = 23) ∧
  (∀ body : AssignBody, AssignBody.ofBytes body.bytes = body ∧ body.bytes.length = 21) ∧
  (∀ (v : Half) (before after : List Byte), halfAt (before ++ halfBytes v ++ after) before.length = v)

/-- The characters and frames of the station link (R114, R119, R130, section 7.4): a data character carries its byte with
even parity and reads back, any one damaged bit after the start bit makes it bad, and an address character is bad to
the controller; a reply frame and a diagnostic frame read back what they carry. A reply frame of other than six
characters, with a bad character or a wrong check, or with a tension above 8191 or a length above 16383, is damaged, and
so is a diagnostic frame of other than four, with a bad character or a wrong check. A reply is good (R120) exactly when
its first character is in time, its first six are an intact frame, and, in a POLL or COMMAND slot, none comes after the
sixth; in a QUERY slot those after the sixth are handed on unweighed. -/
def Obligations.LinkFramesRoundTrip : Prop :=
  (∀ d : Byte, LinkChar.good (linkChar false d) = true ∧ LinkChar.data (linkChar false d) = d ∧ LinkChar.good (linkChar true d) = false ∧
    LinkChar.data (linkChar true d) = d) ∧
  (∀ (d : Byte) (i : Nat), 1 ≤ i → i ≤ 11 → LinkChar.good (linkChar false d ^^^ BitVec.ofNat 12 (2 ^ i)) = false) ∧
  (∀ (flags : Byte) (m l : Half), ∀ bytes, bytes = flags :: (halfBytes m ++ halfBytes l) →
    replyFrame ((bytes ++ [checkSum bytes]).map (linkChar false)) =
      if m.toNat ≤ 8191 ∧ l.toNat ≤ 16383 then some { flags := flags, tension := m.toNat, length := l.toNat }
      else none) ∧
  (∀ (kind : Byte) (v : Half), ∀ bytes, bytes = kind :: halfBytes v →
    diagnosticFrame ((bytes ++ [checkSum bytes]).map (linkChar false)) = some (kind, v)) ∧
  (∀ (kind : Byte) (v : Half) (check : Byte), check ≠ checkSum (kind :: halfBytes v) →
    diagnosticFrame ((kind :: (halfBytes v ++ [check])).map (linkChar false)) = none) ∧
  (∀ (flags : Byte) (m l : Half) (check : Byte), check ≠ checkSum (flags :: (halfBytes m ++ halfBytes l)) →
    replyFrame ((flags :: (halfBytes m ++ halfBytes l ++ [check])).map (linkChar false)) = none) ∧
  (∀ chars : List LinkChar,
    (chars.length ≠ 6 ∨ (∃ c ∈ chars, LinkChar.good c = false) → replyFrame chars = none) ∧
    (chars.length ≠ 4 ∨ (∃ c ∈ chars, LinkChar.good c = false) → diagnosticFrame chars = none)) ∧
  (∀ (slot : LinkSlot) (inTime : Bool) (chars extra : List LinkChar) (f : Frame),
    slot.judge inTime chars = some (f, extra) ↔
      inTime = true ∧ replyFrame (chars.take 6) = some f ∧ extra = chars.drop 6 ∧
        ((∀ k, slot.kind ≠ .query k) → chars.drop 6 = []))

/-! ### Whole-machine rules and invariants -/

/-- The identity of a record, its length limits, its own limits and its regulation settings are never changed by a
command; a record goes only with its slot's generation going up by 1, but for a power-on reset; a FREE slot keeps its
generation, and a record that appears in one is PREPARED (R1, R2, R3, R4, R7, R17). -/
def Obligations.IdentityIsFixedForLife : Prop :=
  ∀ (c : Instr) (s t : State) (h : Fin 32), exec c s = .next t → c ≠ .powerOnReset →
    (∀ r, s.record? h = some r →
      (t.record? h = none ∧ t.generation h = s.generation h + 1) ∨
      ∃ r', t.record? h = some r' ∧ t.generation h = s.generation h ∧
        r'.station = r.station ∧ r'.callTag = r.callTag ∧ r'.group = r.group ∧ r'.role = r.role ∧
        r'.lRun = r.lRun ∧ r'.lMin = r.lMin ∧ r'.lMax = r.lMax ∧ r'.q = r.q ∧ r'.k = r.k ∧
        r'.t = r.t ∧ r'.r = r.r ∧ r'.stepSize = r.stepSize) ∧
    (s.record? h = none →
      t.generation h = s.generation h ∧ ∀ r', t.record? h = some r' → r'.state = .prepared)

/-- The interlocks (R99): a FREE that a command newly places while the ramp condition or berth hold is active was placed
by an emergency release: the command is RELEASE ALL (or the write of its code that an ill-formed row spells, log 15),
the end of a request with that code posted, or a qualification; the latch is set and every group's stage is NONE. -/
def Obligations.InterlocksHoldBackEveryRelease : Prop :=
  ∀ (c : Instr) (s t : State) (st : Fin 24), exec c s = .next t → t.condition .ramp = true ∨ t.berthHold = true →
    (s.entry st).command ≠ some .free → (t.entry st).command = some .free →
    t.emergencyLatch = true ∧ (∀ g, t.groupEntry g = .idle) ∧
      (c = .releaseAll ∨ c = .urgentCodeInvalid 3 ∨ c = .requestEnd ∧ s.port.posted = some .releaseAll ∨
        ∃ l, c = .lineQualified l)

/-- No correction step is issued while berth hold is in force or while the berth is not configured, and a step issued
stays within S and the length limits (R63, R64, R65, R147): the step's command takes the station's slot, and C goes
to R. -/
def Obligations.StepsAreIssuedOnlyWithinLimits : Prop :=
  ∀ (c : Instr) (s t : State) (h : Fin 32) (r r' : Record) (x : StepInFlight), s.StationsShared → s.LinkOk →
    exec c s = .next t → s.record? h = some r → t.record? h = some r' → r'.step = some x → r.step ≠ some x →
    t.berthHold = false ∧ t.configured = true ∧ r'.state = .tending ∧ r'.c = r'.r ∧
      1 ≤ x.amount ∧ x.amount ≤ r'.stepSize ∧
      (x.dir = .pay → r'.len + x.amount ≤ r'.lMax ∧ (t.entry r'.station).command = some (.stepPay x.amount)) ∧
      (x.dir = .haul → r'.lMin + x.amount ≤ r'.len ∧ (t.entry r'.station).command = some (.stepHaul x.amount))

/-- Every invariant below holds of the machine after reset. -/
def Obligations.InvariantsHoldAtReset : Prop :=
  State.reset.EachRecord Record.TensionOk ∧ State.reset.EachRecord Record.FieldsOk ∧ State.reset.HoldOk ∧
    State.reset.TimesOk ∧ State.reset.StationsShared ∧ State.reset.LinkOk ∧ State.reset.GroupsOk ∧ State.reset.port.Ok

/-- Every step keeps the bounds of the tension values (R92): K + B < P, P + B < Q, 10 ≤ P ≤ 7000, 1 ≤ B ≤ 500, B at most
a quarter of P; and the effective setpoint of a record without a proving part is then P itself. -/
def Obligations.TensionBoundsAreKept : Prop :=
  ∀ s t : State, s.EachRecord Record.TensionOk → step s = .next t →
    t.EachRecord Record.TensionOk ∧ ∀ h r, t.record? h = some r → r.proving = none → r.effective = r.p

/-- Every step keeps every field of every record in its range and every optional part where its rule permits it (R3, R4,
R5, R27, R42, R52, R70, R72, R79, R83, R92, R149): among them L at most 16383 and M at most 8191, which only an intact
reply writes (R119), and P′ and B′ at most 8191. A remaining time's range is `DeadlinesFollowBerthHold`. -/
def Obligations.RecordFieldsStayInRange : Prop :=
  ∀ s t : State, s.EachRecord Record.FieldsOk → step s = .next t → t.EachRecord Record.FieldsOk

/-- Every step keeps the deadlines: a paused record's frozen, any other moving record's running, and every remaining time
and timeout 1 to 6000 (R22, R27, R47, R48, R96). -/
def Obligations.DeadlinesFollowBerthHold : Prop :=
  ∀ s t : State, s.HoldOk → s.TimesOk → step s = .next t → t.HoldOk ∧ t.TimesOk

/-- Every step keeps the station rules: at most one engaged record on a station, no two records of one call tag on it,
and at most two records (R9, R31). -/
def Obligations.StationsAreSharedByTheRules : Prop :=
  ∀ s t : State, s.StationsShared → step s = .next t → t.StationsShared

/-- Every step keeps the station table in step with the map, the configured flag and the line table (R31, R117, R121,
R123, R132, R135). -/
def Obligations.StationTableStaysConsistent : Prop :=
  ∀ s t : State, s.StationsShared → s.LinkOk → step s = .next t → t.LinkOk

/-- Every step keeps the group table's running stages made of RELEASING records of their group and roles (R96, R101,
R102). -/
def Obligations.RunningStagesListReleasingMembers : Prop :=
  ∀ s t : State, s.GroupsOk → step s = .next t → t.GroupsOk

/-- Every step keeps the port's mailboxes, posted code and executing request in the conditions of R170 to R176. -/
def Obligations.PortMailboxesStayConsistent : Prop :=
  ∀ s t : State, s.port.Ok → step s = .next t → t.port.Ok
end

