-- ==== Sys2Proof/Laws/State.lean ====
section
/-! SUPPORT. What each update of the state leaves as it was, field by field, and what a read gives after a write: every
lemma here is a rewrite towards the state before the update. -/

namespace Sys2Proof.Machine.State

/-! ### The fields an update leaves alone -/

@[simp] theorem putRecord_config (s : State) (h : Fin 32) (r : Record) : (s.putRecord h r).config = s.config := rfl
@[simp] theorem putRecord_configured (s : State) (h : Fin 32) (r : Record) : (s.putRecord h r).configured = s.configured := rfl
@[simp] theorem putRecord_stations (s : State) (h : Fin 32) (r : Record) : (s.putRecord h r).stations = s.stations := rfl
@[simp] theorem putRecord_scan (s : State) (h : Fin 32) (r : Record) : (s.putRecord h r).scan = s.scan := rfl
@[simp] theorem putRecord_groups (s : State) (h : Fin 32) (r : Record) : (s.putRecord h r).groups = s.groups := rfl
@[simp] theorem putRecord_lines (s : State) (h : Fin 32) (r : Record) : (s.putRecord h r).lines = s.lines := rfl
@[simp] theorem putRecord_softwareHold (s : State) (h : Fin 32) (r : Record) : (s.putRecord h r).softwareHold = s.softwareHold := rfl
@[simp] theorem putRecord_emergencyLatch (s : State) (h : Fin 32) (r : Record) : (s.putRecord h r).emergencyLatch = s.emergencyLatch := rfl
@[simp] theorem putRecord_noticesEnable (s : State) (h : Fin 32) (r : Record) : (s.putRecord h r).noticesEnable = s.noticesEnable := rfl
@[simp] theorem putRecord_port (s : State) (h : Fin 32) (r : Record) : (s.putRecord h r).port = s.port := rfl
@[simp] theorem putRecord_holdEnds (s : State) (h : Fin 32) (r : Record) : (s.putRecord h r).holdEnds = s.holdEnds := rfl
@[simp] theorem putRecord_pending (s : State) (h : Fin 32) (r : Record) : (s.putRecord h r).pending = s.pending := rfl

@[simp] theorem freeSlot_config (s : State) (h : Fin 32) : (s.freeSlot h).config = s.config := rfl
@[simp] theorem freeSlot_configured (s : State) (h : Fin 32) : (s.freeSlot h).configured = s.configured := rfl
@[simp] theorem freeSlot_stations (s : State) (h : Fin 32) : (s.freeSlot h).stations = s.stations := rfl
@[simp] theorem freeSlot_scan (s : State) (h : Fin 32) : (s.freeSlot h).scan = s.scan := rfl
@[simp] theorem freeSlot_groups (s : State) (h : Fin 32) : (s.freeSlot h).groups = s.groups := rfl
@[simp] theorem freeSlot_lines (s : State) (h : Fin 32) : (s.freeSlot h).lines = s.lines := rfl
@[simp] theorem freeSlot_softwareHold (s : State) (h : Fin 32) : (s.freeSlot h).softwareHold = s.softwareHold := rfl
@[simp] theorem freeSlot_emergencyLatch (s : State) (h : Fin 32) : (s.freeSlot h).emergencyLatch = s.emergencyLatch := rfl
@[simp] theorem freeSlot_noticesEnable (s : State) (h : Fin 32) : (s.freeSlot h).noticesEnable = s.noticesEnable := rfl
@[simp] theorem freeSlot_port (s : State) (h : Fin 32) : (s.freeSlot h).port = s.port := rfl
@[simp] theorem freeSlot_holdEnds (s : State) (h : Fin 32) : (s.freeSlot h).holdEnds = s.holdEnds := rfl
@[simp] theorem freeSlot_pending (s : State) (h : Fin 32) : (s.freeSlot h).pending = s.pending := rfl

@[simp] theorem putEntry_table (s : State) (st : Fin 24) (e : StationEntry) : (s.putEntry st e).table = s.table := rfl
@[simp] theorem putEntry_config (s : State) (st : Fin 24) (e : StationEntry) : (s.putEntry st e).config = s.config := rfl
@[simp] theorem putEntry_configured (s : State) (st : Fin 24) (e : StationEntry) : (s.putEntry st e).configured = s.configured := rfl
@[simp] theorem putEntry_scan (s : State) (st : Fin 24) (e : StationEntry) : (s.putEntry st e).scan = s.scan := rfl
@[simp] theorem putEntry_groups (s : State) (st : Fin 24) (e : StationEntry) : (s.putEntry st e).groups = s.groups := rfl
@[simp] theorem putEntry_lines (s : State) (st : Fin 24) (e : StationEntry) : (s.putEntry st e).lines = s.lines := rfl
@[simp] theorem putEntry_softwareHold (s : State) (st : Fin 24) (e : StationEntry) : (s.putEntry st e).softwareHold = s.softwareHold := rfl
@[simp] theorem putEntry_emergencyLatch (s : State) (st : Fin 24) (e : StationEntry) : (s.putEntry st e).emergencyLatch = s.emergencyLatch := rfl
@[simp] theorem putEntry_noticesEnable (s : State) (st : Fin 24) (e : StationEntry) : (s.putEntry st e).noticesEnable = s.noticesEnable := rfl
@[simp] theorem putEntry_port (s : State) (st : Fin 24) (e : StationEntry) : (s.putEntry st e).port = s.port := rfl
@[simp] theorem putEntry_holdEnds (s : State) (st : Fin 24) (e : StationEntry) : (s.putEntry st e).holdEnds = s.holdEnds := rfl
@[simp] theorem putEntry_pending (s : State) (st : Fin 24) (e : StationEntry) : (s.putEntry st e).pending = s.pending := rfl

@[simp] theorem putGroup_table (s : State) (g : Fin 8) (e : GroupEntry) : (s.putGroup g e).table = s.table := rfl
@[simp] theorem putGroup_config (s : State) (g : Fin 8) (e : GroupEntry) : (s.putGroup g e).config = s.config := rfl
@[simp] theorem putGroup_configured (s : State) (g : Fin 8) (e : GroupEntry) : (s.putGroup g e).configured = s.configured := rfl
@[simp] theorem putGroup_stations (s : State) (g : Fin 8) (e : GroupEntry) : (s.putGroup g e).stations = s.stations := rfl
@[simp] theorem putGroup_scan (s : State) (g : Fin 8) (e : GroupEntry) : (s.putGroup g e).scan = s.scan := rfl
@[simp] theorem putGroup_lines (s : State) (g : Fin 8) (e : GroupEntry) : (s.putGroup g e).lines = s.lines := rfl
@[simp] theorem putGroup_softwareHold (s : State) (g : Fin 8) (e : GroupEntry) : (s.putGroup g e).softwareHold = s.softwareHold := rfl
@[simp] theorem putGroup_emergencyLatch (s : State) (g : Fin 8) (e : GroupEntry) : (s.putGroup g e).emergencyLatch = s.emergencyLatch := rfl
@[simp] theorem putGroup_noticesEnable (s : State) (g : Fin 8) (e : GroupEntry) : (s.putGroup g e).noticesEnable = s.noticesEnable := rfl
@[simp] theorem putGroup_port (s : State) (g : Fin 8) (e : GroupEntry) : (s.putGroup g e).port = s.port := rfl
@[simp] theorem putGroup_holdEnds (s : State) (g : Fin 8) (e : GroupEntry) : (s.putGroup g e).holdEnds = s.holdEnds := rfl
@[simp] theorem putGroup_pending (s : State) (g : Fin 8) (e : GroupEntry) : (s.putGroup g e).pending = s.pending := rfl

@[simp] theorem putLine_table (s : State) (l : Fin 8) (b : BerthLine) : (s.putLine l b).table = s.table := rfl
@[simp] theorem putLine_config (s : State) (l : Fin 8) (b : BerthLine) : (s.putLine l b).config = s.config := rfl
@[simp] theorem putLine_configured (s : State) (l : Fin 8) (b : BerthLine) : (s.putLine l b).configured = s.configured := rfl
@[simp] theorem putLine_stations (s : State) (l : Fin 8) (b : BerthLine) : (s.putLine l b).stations = s.stations := rfl
@[simp] theorem putLine_scan (s : State) (l : Fin 8) (b : BerthLine) : (s.putLine l b).scan = s.scan := rfl
@[simp] theorem putLine_groups (s : State) (l : Fin 8) (b : BerthLine) : (s.putLine l b).groups = s.groups := rfl
@[simp] theorem putLine_softwareHold (s : State) (l : Fin 8) (b : BerthLine) : (s.putLine l b).softwareHold = s.softwareHold := rfl
@[simp] theorem putLine_emergencyLatch (s : State) (l : Fin 8) (b : BerthLine) : (s.putLine l b).emergencyLatch = s.emergencyLatch := rfl
@[simp] theorem putLine_noticesEnable (s : State) (l : Fin 8) (b : BerthLine) : (s.putLine l b).noticesEnable = s.noticesEnable := rfl
@[simp] theorem putLine_port (s : State) (l : Fin 8) (b : BerthLine) : (s.putLine l b).port = s.port := rfl
@[simp] theorem putLine_holdEnds (s : State) (l : Fin 8) (b : BerthLine) : (s.putLine l b).holdEnds = s.holdEnds := rfl
@[simp] theorem putLine_pending (s : State) (l : Fin 8) (b : BerthLine) : (s.putLine l b).pending = s.pending := rfl

@[simp] theorem passTime_config (s : State) (n : Nat) : (s.passTime n).config = s.config := by simp only [passTime]
@[simp] theorem passTime_configured (s : State) (n : Nat) : (s.passTime n).configured = s.configured := by simp only [passTime]
@[simp] theorem passTime_stations (s : State) (n : Nat) : (s.passTime n).stations = s.stations := by simp only [passTime]
@[simp] theorem passTime_scan (s : State) (n : Nat) : (s.passTime n).scan = s.scan := by simp only [passTime]
@[simp] theorem passTime_lines (s : State) (n : Nat) : (s.passTime n).lines = s.lines := by simp only [passTime]
@[simp] theorem passTime_softwareHold (s : State) (n : Nat) : (s.passTime n).softwareHold = s.softwareHold := by simp only [passTime]
@[simp] theorem passTime_emergencyLatch (s : State) (n : Nat) : (s.passTime n).emergencyLatch = s.emergencyLatch := by simp only [passTime]
@[simp] theorem passTime_noticesEnable (s : State) (n : Nat) : (s.passTime n).noticesEnable = s.noticesEnable := by simp only [passTime]
@[simp] theorem passTime_port (s : State) (n : Nat) : (s.passTime n).port = s.port := by simp only [passTime]
@[simp] theorem passTime_holdEnds (s : State) (n : Nat) : (s.passTime n).holdEnds = s.holdEnds := by simp only [passTime]
@[simp] theorem passTime_pending (s : State) (n : Nat) : (s.passTime n).pending = s.pending := by simp only [passTime]

/-! ### Reads after writes: the line table -/

theorem record?_putRecord (s : State) (h h' : Fin 32) (r : Record) :
    (s.putRecord h r).record? h' = if h' = h then some r else s.record? h' := by
  by_cases e : h' = h
  · subst e; simp [record?, putRecord]
  · have e' : ¬ h.val = h'.val := fun x => e (Fin.ext x.symm)
    simp [record?, putRecord, e, e']

@[simp] theorem record?_putRecord_self (s : State) (h : Fin 32) (r : Record) : (s.putRecord h r).record? h = some r := by
  simp [record?_putRecord]

theorem record?_putRecord_ne (s : State) {h h' : Fin 32} (r : Record) (ne : h' ≠ h) :
    (s.putRecord h r).record? h' = s.record? h' := by
  simp [record?_putRecord, ne]

@[simp] theorem generation_putRecord (s : State) (h h' : Fin 32) (r : Record) :
    (s.putRecord h r).generation h' = s.generation h' := by
  by_cases e : h = h'
  · subst e; simp [generation, putRecord]
  · have e' : ¬ h.val = h'.val := fun x => e (Fin.ext x)
    simp [generation, putRecord, e']

@[simp] theorem refOf_putRecord (s : State) (h h' : Fin 32) (r : Record) : (s.putRecord h r).refOf h' = s.refOf h' := by
  simp [refOf]

theorem putRecord_putRecord (s : State) (h : Fin 32) (r r' : Record) :
    (s.putRecord h r).putRecord h r' = s.putRecord h r' := by
  simp [putRecord]

theorem record?_freeSlot (s : State) (h h' : Fin 32) :
    (s.freeSlot h).record? h' = if h' = h then none else s.record? h' := by
  by_cases e : h' = h
  · subst e; simp [record?, freeSlot]
  · have e' : ¬ h.val = h'.val := fun x => e (Fin.ext x.symm)
    simp [record?, freeSlot, e, e']

/-- A freed slot's generation goes up by one, 7 being followed by 0; every other slot keeps its own (R7). -/
theorem generation_freeSlot (s : State) (h h' : Fin 32) :
    (s.freeSlot h).generation h' = if h' = h then s.generation h + 1 else s.generation h' := by
  by_cases e : h' = h
  · subst e; simp [generation, freeSlot]
  · have e' : ¬ h.val = h'.val := fun x => e (Fin.ext x.symm)
    simp [generation, freeSlot, e, e']

/-! ### Reads after writes: station table, group table and lines -/

theorem entry_putEntry (s : State) (st st' : Fin 24) (e : StationEntry) :
    (s.putEntry st e).entry st' = if st' = st then e else s.entry st' := by
  by_cases q : st' = st
  · subst q; simp [entry, putEntry]
  · have q' : ¬ st.val = st'.val := fun x => q (Fin.ext x.symm)
    simp [entry, putEntry, q, q']

@[simp] theorem entry_putEntry_self (s : State) (st : Fin 24) (e : StationEntry) : (s.putEntry st e).entry st = e := by
  simp [entry_putEntry]

theorem groupEntry_putGroup (s : State) (g g' : Fin 8) (e : GroupEntry) :
    (s.putGroup g e).groupEntry g' = if g' = g then e else s.groupEntry g' := by
  by_cases q : g' = g
  · subst q; simp [groupEntry, putGroup]
  · have q' : ¬ g.val = g'.val := fun x => q (Fin.ext x.symm)
    simp [groupEntry, putGroup, q, q']

@[simp] theorem groupEntry_putGroup_self (s : State) (g : Fin 8) (e : GroupEntry) :
    (s.putGroup g e).groupEntry g = e := by
  simp [groupEntry_putGroup]

theorem line_putLine (s : State) (l l' : Fin 8) (b : BerthLine) :
    (s.putLine l b).line l' = if l' = l then b else s.line l' := by
  by_cases q : l' = l
  · subst q; simp [line, putLine]
  · have q' : ¬ l.val = l'.val := fun x => q (Fin.ext x.symm)
    simp [line, putLine, q, q']

@[simp] theorem line_putLine_self (s : State) (l : Fin 8) (b : BerthLine) : (s.putLine l b).line l = b := by
  simp [line_putLine]

/-! ### Reads of one table after a write of another -/

@[simp] theorem entry_putRecord (s : State) (h : Fin 32) (r : Record) (st : Fin 24) :
    (s.putRecord h r).entry st = s.entry st := rfl
@[simp] theorem groupEntry_putRecord (s : State) (h : Fin 32) (r : Record) (g : Fin 8) :
    (s.putRecord h r).groupEntry g = s.groupEntry g := rfl
@[simp] theorem line_putRecord (s : State) (h : Fin 32) (r : Record) (l : Fin 8) :
    (s.putRecord h r).line l = s.line l := rfl
@[simp] theorem entry_freeSlot (s : State) (h : Fin 32) (st : Fin 24) : (s.freeSlot h).entry st = s.entry st := rfl
@[simp] theorem groupEntry_freeSlot (s : State) (h : Fin 32) (g : Fin 8) :
    (s.freeSlot h).groupEntry g = s.groupEntry g := rfl
@[simp] theorem record?_putEntry (s : State) (st : Fin 24) (e : StationEntry) (h : Fin 32) :
    (s.putEntry st e).record? h = s.record? h := rfl
@[simp] theorem generation_putEntry (s : State) (st : Fin 24) (e : StationEntry) (h : Fin 32) :
    (s.putEntry st e).generation h = s.generation h := rfl
@[simp] theorem groupEntry_putEntry (s : State) (st : Fin 24) (e : StationEntry) (g : Fin 8) :
    (s.putEntry st e).groupEntry g = s.groupEntry g := rfl
@[simp] theorem record?_putGroup (s : State) (g : Fin 8) (e : GroupEntry) (h : Fin 32) :
    (s.putGroup g e).record? h = s.record? h := rfl
@[simp] theorem generation_putGroup (s : State) (g : Fin 8) (e : GroupEntry) (h : Fin 32) :
    (s.putGroup g e).generation h = s.generation h := rfl
@[simp] theorem entry_putGroup (s : State) (g : Fin 8) (e : GroupEntry) (st : Fin 24) :
    (s.putGroup g e).entry st = s.entry st := rfl
@[simp] theorem record?_putLine (s : State) (l : Fin 8) (b : BerthLine) (h : Fin 32) :
    (s.putLine l b).record? h = s.record? h := rfl
@[simp] theorem entry_putLine (s : State) (l : Fin 8) (b : BerthLine) (st : Fin 24) :
    (s.putLine l b).entry st = s.entry st := rfl
@[simp] theorem groupEntry_putLine (s : State) (l : Fin 8) (b : BerthLine) (g : Fin 8) :
    (s.putLine l b).groupEntry g = s.groupEntry g := rfl

/-! ### What depends on the configuration and the lines alone -/

@[simp] theorem condition_putRecord (s : State) (h : Fin 32) (r : Record) (f : LineFunction) :
    (s.putRecord h r).condition f = s.condition f := rfl
@[simp] theorem berthHold_putRecord (s : State) (h : Fin 32) (r : Record) : (s.putRecord h r).berthHold = s.berthHold := rfl
@[simp] theorem interlocked_putRecord (s : State) (h : Fin 32) (r : Record) :
    (s.putRecord h r).interlocked = s.interlocked := rfl
@[simp] theorem mapped_putRecord (s : State) (h : Fin 32) (r : Record) (st : Fin 24) :
    (s.putRecord h r).mapped st = s.mapped st := rfl
@[simp] theorem berthHold_putEntry (s : State) (st : Fin 24) (e : StationEntry) :
    (s.putEntry st e).berthHold = s.berthHold := rfl
@[simp] theorem interlocked_putEntry (s : State) (st : Fin 24) (e : StationEntry) :
    (s.putEntry st e).interlocked = s.interlocked := rfl
@[simp] theorem interlocked_putGroup (s : State) (g : Fin 8) (e : GroupEntry) :
    (s.putGroup g e).interlocked = s.interlocked := rfl
@[simp] theorem berthHold_putGroup (s : State) (g : Fin 8) (e : GroupEntry) :
    (s.putGroup g e).berthHold = s.berthHold := rfl
@[simp] theorem interlocked_freeSlot (s : State) (h : Fin 32) : (s.freeSlot h).interlocked = s.interlocked := rfl
@[simp] theorem interlocked_passTime (s : State) (n : Nat) : (s.passTime n).interlocked = s.interlocked := by
  unfold passTime; generalize mapEntries _ s.table = table; generalize mapEntries _ s.groups = groups; rfl
@[simp] theorem berthHold_passTime (s : State) (n : Nat) : (s.passTime n).berthHold = s.berthHold := by
  unfold passTime; generalize mapEntries _ s.table = table; generalize mapEntries _ s.groups = groups; rfl
@[simp] theorem berthHold_freeSlot (s : State) (h : Fin 32) : (s.freeSlot h).berthHold = s.berthHold := rfl

end Sys2Proof.Machine.State
end

