-- ==== Sys2Proof/Laws/Ops.lean ====
section
/-! SUPPORT. What each shared operation over the tables can do, said once: the command slot, the records of a pass over the
table, and the tables rewritten whole. -/

namespace Sys2Proof.Machine

/-! ### The command slot (R94) -/

/-- A command given changes nothing of a station's entry but its command slot, and nothing of any other entry: it takes the
slot if the arbitration places it, and is discarded otherwise. -/
theorem State.entry_giveCommand (s : State) (st st' : Fin 24) (c : Command) :
    (s.giveCommand st c).entry st' =
      if st' = st ∧ commandPlaced (s.entry st).command c = true then { s.entry st with command := some c }
      else s.entry st' := by
  unfold State.giveCommand
  split
  · next placed =>
    show (s.putEntry st _).entry st' = _
    rw [State.entry_putEntry]
    by_cases e : st' = st
    · subst e; simp [placed]
    · simp [e]
  · next placed => simp [placed]

/-- A command given leaves every part of the state but the station table and the slot in progress as it was. -/
theorem State.giveCommand_cases (s : State) (st : Fin 24) (c : Command) :
    ∃ stations scan, s.giveCommand st c = { s with stations := stations, scan := scan } ∧
      scan.station = s.scan.station := by
  unfold State.giveCommand
  split
  · refine ⟨_, _, rfl, ?_⟩
    show (if s.scan.station = st then _ else s.scan : Scan).station = s.scan.station
    split <;> rfl
  · exact ⟨s.stations, s.scan, rfl, rfl⟩

section giveCommand
variable (s : State) (st : Fin 24) (c : Command)

@[simp] theorem State.giveCommand_table : (s.giveCommand st c).table = s.table := by
  obtain ⟨_, _, e, _⟩ := s.giveCommand_cases st c; rw [e]
@[simp] theorem State.giveCommand_config : (s.giveCommand st c).config = s.config := by
  obtain ⟨_, _, e, _⟩ := s.giveCommand_cases st c; rw [e]
@[simp] theorem State.giveCommand_configured : (s.giveCommand st c).configured = s.configured := by
  obtain ⟨_, _, e, _⟩ := s.giveCommand_cases st c; rw [e]
@[simp] theorem State.giveCommand_groups : (s.giveCommand st c).groups = s.groups := by
  obtain ⟨_, _, e, _⟩ := s.giveCommand_cases st c; rw [e]
@[simp] theorem State.giveCommand_lines : (s.giveCommand st c).lines = s.lines := by
  obtain ⟨_, _, e, _⟩ := s.giveCommand_cases st c; rw [e]
@[simp] theorem State.giveCommand_softwareHold : (s.giveCommand st c).softwareHold = s.softwareHold := by
  obtain ⟨_, _, e, _⟩ := s.giveCommand_cases st c; rw [e]
@[simp] theorem State.giveCommand_emergencyLatch : (s.giveCommand st c).emergencyLatch = s.emergencyLatch := by
  obtain ⟨_, _, e, _⟩ := s.giveCommand_cases st c; rw [e]
@[simp] theorem State.giveCommand_noticesEnable : (s.giveCommand st c).noticesEnable = s.noticesEnable := by
  obtain ⟨_, _, e, _⟩ := s.giveCommand_cases st c; rw [e]
@[simp] theorem State.giveCommand_port : (s.giveCommand st c).port = s.port := by
  obtain ⟨_, _, e, _⟩ := s.giveCommand_cases st c; rw [e]
@[simp] theorem State.giveCommand_holdEnds : (s.giveCommand st c).holdEnds = s.holdEnds := by
  obtain ⟨_, _, e, _⟩ := s.giveCommand_cases st c; rw [e]
@[simp] theorem State.giveCommand_pending : (s.giveCommand st c).pending = s.pending := by
  obtain ⟨_, _, e, _⟩ := s.giveCommand_cases st c; rw [e]
@[simp] theorem State.giveCommand_scanStation : (s.giveCommand st c).scan.station = s.scan.station := by
  obtain ⟨_, _, e, h⟩ := s.giveCommand_cases st c; rw [e]; exact h
@[simp] theorem State.record?_giveCommand (h : Fin 32) : (s.giveCommand st c).record? h = s.record? h := by
  obtain ⟨_, _, e, _⟩ := s.giveCommand_cases st c; rw [e]; rfl
@[simp] theorem State.generation_giveCommand (h : Fin 32) : (s.giveCommand st c).generation h = s.generation h := by
  obtain ⟨_, _, e, _⟩ := s.giveCommand_cases st c; rw [e]; rfl
@[simp] theorem State.refOf_giveCommand (h : Fin 32) : (s.giveCommand st c).refOf h = s.refOf h := by
  obtain ⟨_, _, e, _⟩ := s.giveCommand_cases st c; rw [e]; rfl
@[simp] theorem State.groupEntry_giveCommand (g : Fin 8) : (s.giveCommand st c).groupEntry g = s.groupEntry g := by
  obtain ⟨_, _, e, _⟩ := s.giveCommand_cases st c; rw [e]; rfl
@[simp] theorem State.condition_giveCommand (f : LineFunction) : (s.giveCommand st c).condition f = s.condition f := by
  obtain ⟨_, _, e, _⟩ := s.giveCommand_cases st c; rw [e]; rfl
@[simp] theorem State.berthHold_giveCommand : (s.giveCommand st c).berthHold = s.berthHold := by
  obtain ⟨_, _, e, _⟩ := s.giveCommand_cases st c; rw [e]; rfl
@[simp] theorem State.interlocked_giveCommand : (s.giveCommand st c).interlocked = s.interlocked := by
  obtain ⟨_, _, e, _⟩ := s.giveCommand_cases st c; rw [e]; rfl
@[simp] theorem State.mapped_giveCommand (st' : Fin 24) : (s.giveCommand st c).mapped st' = s.mapped st' := by
  obtain ⟨_, _, e, _⟩ := s.giveCommand_cases st c; rw [e]; rfl

end giveCommand

/-! ### Reading a record, and acting with it -/

theorem State.withRecord_some {s : State} {h : Fin 32} {r : Record} (at_h : s.record? h = some r) (f : Record → State) :
    s.withRecord h f = f r := by
  simp [State.withRecord, at_h]

theorem State.withRecord_none {s : State} {h : Fin 32} (free : s.record? h = none) (f : Record → State) :
    s.withRecord h f = s := by
  simp [State.withRecord, free]

theorem State.modifyRecord_some {s : State} {h : Fin 32} {r : Record} (at_h : s.record? h = some r)
    (f : Record → Record) : s.modifyRecord h f = s.putRecord h (f r) := by
  simp [State.modifyRecord, State.withRecord_some at_h]

theorem State.holds_iff (s : State) (h : Fin 32) (test : Record → Bool) :
    s.holds h test = true ↔ ∃ r, s.record? h = some r ∧ test r = true := by
  unfold State.holds; cases s.record? h <;> simp

theorem State.mem_handlesWith (s : State) (test : Record → Bool) (h : Fin 32) :
    h ∈ s.handlesWith test ↔ ∃ r, s.record? h = some r ∧ test r = true := by
  simp [State.handlesWith, State.holds_iff]

theorem State.handlesWith_nodup (s : State) (test : Record → Bool) : (s.handlesWith test).Nodup :=
  (List.nodup_finRange 32).filter _

/-- The engaged record that a station is found to have is one (R23). -/
theorem State.engagedOn_some {s : State} {st : Fin 24} {h : Fin 32} (found : s.engagedOn st = some h) :
    ∃ r, s.record? h = some r ∧ r.station = st ∧ r.state.engaged = true := by
  have := List.find?_some found
  simpa [State.holds_iff] using this

/-- A station without an engaged record is one that no engaged record names. -/
theorem State.engagedOn_none_iff (s : State) (st : Fin 24) :
    s.engagedOn st = none ↔ ∀ h r, s.record? h = some r → r.station = st → r.state.engaged = false := by
  simp only [State.engagedOn, List.find?_eq_none, State.holds, List.mem_finRange, true_implies]
  refine forall_congr' fun h => ?_
  cases s.record? h <;> simp

/-! ### Passes over a table -/

/-- What every element's turn keeps, a whole pass keeps. -/
theorem foldl_keeps {α β : Type} (P : β → Prop) (f : β → α → β) (keeps : ∀ b a, P b → P (f b a)) (l : List α) (b : β)
    (start : P b) : P (l.foldl f b) := by
  induction l generalizing b with
  | nil => exact start
  | cons a l ih => exact ih _ (keeps _ _ start)

theorem State.forRecords_keeps (P : State → Prop) (f : Fin 32 → State → State) (keeps : ∀ h s, P s → P (f h s))
    (s : State) (start : P s) : P (s.forRecords f) :=
  foldl_keeps P _ (fun s h => keeps h s) _ s start

theorem State.forGroups_keeps (P : State → Prop) (f : Fin 8 → State → State) (keeps : ∀ g s, P s → P (f g s))
    (s : State) (start : P s) : P (s.forGroups f) :=
  foldl_keeps P _ (fun s g => keeps g s) _ s start

/-- A pass whose turn at each key changes a view at that key alone, by a rule that depends on that key's view alone,
changes each key's view once by the rule. -/
theorem foldl_pointwise {α β γ : Type} [DecidableEq α] (view : β → α → γ) (f : β → α → β) (rule : α → γ → γ)
    (at_key : ∀ b a a', view (f b a) a' = if a' = a then rule a (view b a) else view b a') (l : List α) (nodup : l.Nodup)
    (b : β) (a : α) : view (l.foldl f b) a = if a ∈ l then rule a (view b a) else view b a := by
  induction l generalizing b with
  | nil => simp
  | cons x l ih =>
    have hx := List.nodup_cons.mp nodup
    rw [List.foldl_cons, ih hx.2, at_key]
    by_cases e : a = x
    · subst e; simp [hx.1]
    · simp [e]

/-- Each record of a table rewritten whole. -/
theorem getElem_mapEntries {α : Type} {n : Nat} (f : α → α) (v : Vector α n) (i : Fin n) :
    (mapEntries f v)[i] = f v[i] := by
  simp [mapEntries]

/-! ### Time (R27, R96) -/

theorem State.record?_passTime (s : State) (n : Nat) (h : Fin 32) :
    (s.passTime n).record? h = (s.record? h).map (Record.pass n) := by
  simp only [State.record?, State.passTime, getElem_mapEntries]

theorem State.generation_passTime (s : State) (n : Nat) (h : Fin 32) : (s.passTime n).generation h = s.generation h := by
  simp only [State.generation, State.passTime, getElem_mapEntries]

theorem State.groupEntry_passTime (s : State) (n : Nat) (g : Fin 8) :
    (s.passTime n).groupEntry g = (s.groupEntry g).pass n := by
  simp only [State.groupEntry, State.passTime, getElem_mapEntries]

end Sys2Proof.Machine
end

