-- ==== Sys2Proof/Laws/Outside.lean ====
section
/-! SUPPORT. No block but the port reads or writes the port's mailboxes, and no meaning reads or writes the queue: every
operation of the other blocks commutes with replacing both. What a request does is so the same whenever it is taken, and its
frame over the port and the queue follows. -/

namespace Sys2Proof.Machine

/-- The state with another port and another queue. -/
def State.over (s : State) (p : Port) (q : List Instr) : State := { s with port := p, pending := q }

namespace State
variable (s : State) (p : Port) (q : List Instr)

/-! ### Reads -/

@[simp] theorem over_self : s.over s.port s.pending = s := rfl
@[simp] theorem over_over (p' : Port) (q' : List Instr) : (s.over p q).over p' q' = s.over p' q' := rfl
@[simp] theorem port_over : (s.over p q).port = p := rfl
@[simp] theorem pending_over : (s.over p q).pending = q := rfl
@[simp] theorem config_over : (s.over p q).config = s.config := rfl
@[simp] theorem configured_over : (s.over p q).configured = s.configured := rfl
@[simp] theorem scan_over : (s.over p q).scan = s.scan := rfl
@[simp] theorem noticesEnable_over : (s.over p q).noticesEnable = s.noticesEnable := rfl
@[simp] theorem holdEnds_over : (s.over p q).holdEnds = s.holdEnds := rfl
@[simp] theorem record?_over (h : Fin 32) : (s.over p q).record? h = s.record? h := rfl
@[simp] theorem generation_over (h : Fin 32) : (s.over p q).generation h = s.generation h := rfl
@[simp] theorem refOf_over (h : Fin 32) : (s.over p q).refOf h = s.refOf h := rfl
@[simp] theorem names_over (ref : Ref) : (s.over p q).names ref = s.names ref := rfl
@[simp] theorem holds_over (h : Fin 32) (test : Record → Bool) : (s.over p q).holds h test = s.holds h test := rfl
@[simp] theorem handlesWith_over (test : Record → Bool) : (s.over p q).handlesWith test = s.handlesWith test := rfl
@[simp] theorem engagedOn_over (st : Fin 24) : (s.over p q).engagedOn st = s.engagedOn st := rfl
@[simp] theorem recordsOn_over (st : Fin 24) : (s.over p q).recordsOn st = s.recordsOn st := rfl
@[simp] theorem stationTaken_over (st : Fin 24) (tag : Byte) : (s.over p q).stationTaken st tag = s.stationTaken st tag := rfl
@[simp] theorem lowestFree_over : (s.over p q).lowestFree = s.lowestFree := rfl
@[simp] theorem lowestWith_over (test : Record → Bool) : (s.over p q).lowestWith test = s.lowestWith test := rfl
@[simp] theorem entry_over (st : Fin 24) : (s.over p q).entry st = s.entry st := rfl
@[simp] theorem mapped_over (st : Fin 24) : (s.over p q).mapped st = s.mapped st := rfl
@[simp] theorem kindAfterQuery_over (st : Fin 24) (k : Option DiagKind) :
    (s.over p q).kindAfterQuery st k = s.kindAfterQuery st k := rfl
@[simp] theorem stepBlocked_over (st : Fin 24) : (s.over p q).stepBlocked st = s.stepBlocked st := rfl
@[simp] theorem groupEntry_over (g : Fin 8) : (s.over p q).groupEntry g = s.groupEntry g := rfl
@[simp] theorem stageMembers_over (g : Fin 8) (stage : Stage) :
    (s.over p q).stageMembers g stage = s.stageMembers g stage := rfl
@[simp] theorem line_over (l : Fin 8) : (s.over p q).line l = s.line l := rfl
@[simp] theorem lineConfig_over (l : Fin 8) : (s.over p q).lineConfig l = s.lineConfig l := rfl
@[simp] theorem isInput_over (l : Fin 8) : (s.over p q).isInput l = s.isInput l := rfl
@[simp] theorem condition_over (f : LineFunction) : (s.over p q).condition f = s.condition f := rfl
@[simp] theorem conditions_over : (s.over p q).conditions = s.conditions := rfl
@[simp] theorem berthHold_over : (s.over p q).berthHold = s.berthHold := rfl
@[simp] theorem interlocked_over : (s.over p q).interlocked = s.interlocked := rfl
@[simp] theorem paused_over (r : Record) : (s.over p q).paused r = s.paused r := rfl
@[simp] theorem berthReport_over : (s.over p q).berthReport = s.berthReport := rfl
@[simp] theorem nextSlotKind_over : (s.over p q).nextSlotKind = s.nextSlotKind := rfl

/-! ### Writes -/

theorem ite_over {c : Prop} [Decidable c] (a b : State) :
    (if c then a.over p q else b.over p q) = (if c then a else b).over p q := by
  split <;> rfl

@[simp] theorem putRecord_over (h : Fin 32) (r : Record) : (s.over p q).putRecord h r = (s.putRecord h r).over p q := rfl
@[simp] theorem freeSlot_over (h : Fin 32) : (s.over p q).freeSlot h = (s.freeSlot h).over p q := rfl
@[simp] theorem putEntry_over (st : Fin 24) (e : StationEntry) : (s.over p q).putEntry st e = (s.putEntry st e).over p q := rfl
@[simp] theorem putGroup_over (g : Fin 8) (e : GroupEntry) : (s.over p q).putGroup g e = (s.putGroup g e).over p q := rfl
@[simp] theorem putLine_over (l : Fin 8) (b : BerthLine) : (s.over p q).putLine l b = (s.putLine l b).over p q := rfl

@[simp] theorem giveCommand_over (st : Fin 24) (c : Command) :
    (s.over p q).giveCommand st c = (s.giveCommand st c).over p q := by
  by_cases placed : commandPlaced (s.entry st).command c = true
  · simp only [giveCommand, entry_over, placed, if_true]; rfl
  · simp only [giveCommand, entry_over, placed]; rfl

theorem withRecord_over {f : Record → State} {g : Record → State} (agree : ∀ r, f r = (g r).over p q) (h : Fin 32) :
    (s.over p q).withRecord h f = (s.withRecord h g).over p q := by
  unfold withRecord
  simp only [record?_over]
  split
  · exact agree _
  · rfl

@[simp] theorem modifyRecord_over (h : Fin 32) (f : Record → Record) :
    (s.over p q).modifyRecord h f = (s.modifyRecord h f).over p q :=
  s.withRecord_over p q (f := fun r => (s.over p q).putRecord h (f r)) (g := fun r => s.putRecord h (f r)) (fun _ => rfl) h

theorem foldl_over {α : Type} {f : State → α → State} (agree : ∀ s a, f (s.over p q) a = (f s a).over p q) (l : List α) :
    l.foldl f (s.over p q) = (l.foldl f s).over p q := by
  induction l generalizing s with
  | nil => rfl
  | cons a l ih => rw [List.foldl_cons, List.foldl_cons, agree, ih]

theorem forRecords_over {f : Fin 32 → State → State} (agree : ∀ h s, f h (s.over p q) = (f h s).over p q) :
    (s.over p q).forRecords f = (s.forRecords f).over p q :=
  s.foldl_over p q (fun s h => agree h s) _

theorem forGroups_over {f : Fin 8 → State → State} (agree : ∀ g s, f g (s.over p q) = (f g s).over p q) :
    (s.over p q).forGroups f = (s.forGroups f).over p q :=
  s.foldl_over p q (fun s g => agree g s) _

/-! ### The Release Sequencer -/

@[simp] theorem enterReleasing_over (h : Fin 32) : (s.over p q).enterReleasing h = (s.enterReleasing h).over p q :=
  s.withRecord_over p q (fun _ => by simp) h

@[simp] theorem beginStage_over (g : Fin 8) (stage : Stage) (members : List (Fin 32)) :
    (s.over p q).beginStage g stage members = (s.beginStage g stage members).over p q :=
  (s.putGroup g _).foldl_over p q (fun s h => s.enterReleasing_over p q h) members

@[simp] theorem startStage_over (g : Fin 8) (stages : List Stage) :
    startStage g stages (s.over p q) = (startStage g stages s).over p q := by
  induction stages with
  | nil => rfl
  | cons stage rest ih =>
    simp only [startStage, stageMembers_over]
    split
    · exact ih
    · exact s.beginStage_over p q g stage _

@[simp] theorem stageEnded_over (g : Fin 8) (ended : Stage) :
    (s.over p q).stageEnded g ended = (s.stageEnded g ended).over p q := by
  unfold stageEnded; simp only [interlocked_over, putGroup_over, startStage_over]
  repeat' split
  all_goals rfl

@[simp] theorem removeMember_over (g : Fin 8) (ref : Ref) :
    (s.over p q).removeMember g ref = (s.removeMember g ref).over p q := by
  unfold removeMember
  simp only [groupEntry_over, putGroup_over, stageEnded_over]
  split
  · split
    · split <;> rfl
    · rfl
  · rfl

@[simp] theorem startWaiting_over (g : Fin 8) : startWaiting g (s.over p q) = (startWaiting g s).over p q := by
  unfold startWaiting
  simp only [groupEntry_over, interlocked_over, startStage_over]
  split
  · split <;> rfl
  · rfl

@[simp] theorem passTime_over (elapsed : Nat) : (s.over p q).passTime elapsed = (s.passTime elapsed).over p q := rfl

@[simp] theorem expireStage_over (g : Fin 8) (elapsed : Nat) :
    (s.over p q).expireStage g elapsed = (s.expireStage g elapsed).over p q := by
  unfold expireStage; simp only [groupEntry_over, passTime_over, stageEnded_over]
  repeat' split
  all_goals rfl

@[simp] theorem emergencyReleaseRecord_over (h : Fin 32) :
    emergencyReleaseRecord h (s.over p q) = (emergencyReleaseRecord h s).over p q := by
  refine s.withRecord_over p q (fun r => ?_) h
  simp only [enterReleasing_over, modifyRecord_over, putRecord_over]
  repeat' split
  all_goals rfl

@[simp] theorem emergencyRelease_over : (s.over p q).emergencyRelease = s.emergencyRelease.over p q := by
  unfold emergencyRelease
  rw [s.forGroups_over p q (fun _ _ => rfl), forRecords_over _ p q (fun h s => s.emergencyReleaseRecord_over p q h)]

/-! ### The Line State Unit -/

@[simp] theorem enterFault_over (h : Fin 32) (cause : FaultCause) :
    (s.over p q).enterFault h cause = (s.enterFault h cause).over p q :=
  s.withRecord_over p q (fun _ => by simp) h

@[simp] theorem failRecord_over (h : Fin 32) (cause : FaultCause) :
    (s.over p q).failRecord h cause = (s.failRecord h cause).over p q := by
  refine s.withRecord_over p q (fun r => ?_) h
  simp only [enterFault_over, putRecord_over]
  repeat' split
  all_goals rfl

@[simp] theorem expireDeadline_over (h : Fin 32) (elapsed : Nat) :
    (s.over p q).expireDeadline h elapsed = (s.expireDeadline h elapsed).over p q := by
  unfold expireDeadline; simp only [record?_over, passTime_over, enterFault_over]
  split <;> rfl

@[simp] theorem enterMoving_over (h : Fin 32) (r : Record) (time : Nat) :
    (s.over p q).enterMoving h r time = (s.enterMoving h r time).over p q := by
  unfold enterMoving; simp only [berthHold_over, putRecord_over, giveCommand_over]
  repeat' split
  all_goals rfl

@[simp] theorem enterPaying_over (h : Fin 32) : (s.over p q).enterPaying h = (s.enterPaying h).over p q :=
  s.withRecord_over p q (fun _ => by simp) h

@[simp] theorem enterMakingFast_over (h : Fin 32) : (s.over p q).enterMakingFast h = (s.enterMakingFast h).over p q :=
  s.modifyRecord_over p q h _

@[simp] theorem enterHauling_over (h : Fin 32) : (s.over p q).enterHauling h = (s.enterHauling h).over p q :=
  s.withRecord_over p q (fun _ => by simp) h

@[simp] theorem enterRewinding_over (h : Fin 32) : (s.over p q).enterRewinding h = (s.enterRewinding h).over p q :=
  s.withRecord_over p q (fun _ => by simp) h

@[simp] theorem contactArrives_over (h : Fin 32) : contactArrives h (s.over p q) = (contactArrives h s).over p q := by
  unfold contactArrives; simp only [holds_over, enterPaying_over]
  repeat' split
  all_goals rfl

@[simp] theorem pauseRecord_over (h : Fin 32) : pauseRecord h (s.over p q) = (pauseRecord h s).over p q := by
  refine s.withRecord_over p q (fun r => ?_) h
  simp only [putRecord_over, giveCommand_over]
  repeat' split
  all_goals rfl

@[simp] theorem unpauseRecord_over (h : Fin 32) : unpauseRecord h (s.over p q) = (unpauseRecord h s).over p q := by
  refine s.withRecord_over p q (fun r => ?_) h
  simp only [putRecord_over, giveCommand_over]
  repeat' split
  all_goals rfl

@[simp] theorem actOnFlags_over (h : Fin 32) (r : Record) (before : Nat) (f : Frame) :
    (s.over p q).actOnFlags h r before f = (s.actOnFlags h r before f).over p q := by
  unfold actOnFlags
  simp only [enterMakingFast_over, enterHauling_over, enterFault_over, enterRewinding_over, putRecord_over, config_over]
  repeat' split
  all_goals rfl

/-! ### The Tension Regulator -/

@[simp] theorem takeTrip_over (h : Fin 32) : (s.over p q).takeTrip h = (s.takeTrip h).over p q := by
  refine s.withRecord_over p q (fun r => ?_) h
  simp only [putRecord_over, giveCommand_over, stepBlocked_over]
  repeat' split
  all_goals rfl

@[simp] theorem trip_over (h : Fin 32) : (s.over p q).trip h = (s.trip h).over p q := by
  unfold trip; simp only [berthHold_over, modifyRecord_over, takeTrip_over]
  repeat' split
  all_goals rfl

@[simp] theorem takeDeferredTrip_over (h : Fin 32) :
    takeDeferredTrip h (s.over p q) = (takeDeferredTrip h s).over p q := by
  unfold takeDeferredTrip; simp only [holds_over, modifyRecord_over, takeTrip_over]
  repeat' split
  all_goals rfl

@[simp] theorem voteSample_over (h : Fin 32) (r : Record) :
    (s.over p q).voteSample h r = (s.voteSample h r).over p q := by
  unfold voteSample
  simp only [putRecord_over]
  split
  · rfl
  · split <;> simp

@[simp] theorem regulateTending_over (h : Fin 32) (r : Record) (done : Bool) :
    (s.over p q).regulateTending h r done = (s.regulateTending h r done).over p q := by
  unfold regulateTending
  simp only [putRecord_over, enterFault_over, voteSample_over, configured_over]
  repeat' split
  all_goals rfl

@[simp] theorem regulateHeld_over (h : Fin 32) (r : Record) (done : Bool) :
    (s.over p q).regulateHeld h r done = (s.regulateHeld h r done).over p q := rfl

/-! ### The Station Link Controller -/

@[simp] theorem sample_over (h : Fin 32) (f : Frame) : (s.over p q).sample h f = (s.sample h f).over p q := by
  refine s.withRecord_over p q (fun old => ?_) h
  simp only [putRecord_over, entry_over, failRecord_over, regulateTending_over, regulateHeld_over, actOnFlags_over,
      paused_over]
  repeat' split
  all_goals rfl

@[simp] theorem goodReply_over (st : Fin 24) (slot : LinkSlot) (f : Frame) (extra : List LinkChar) :
    (s.over p q).goodReply st slot f extra = (s.goodReply st slot f extra).over p q := by
  unfold goodReply
  simp only [entry_over, putEntry_over, engagedOn_over, sample_over]
  repeat' split
  all_goals rfl

@[simp] theorem miss_over (st : Fin 24) (slot : LinkSlot) : (s.over p q).miss st slot = (s.miss st slot).over p q := by
  let t := s.putEntry st ((s.entry st).missed slot)
  show (if decide ((s.entry st).presence = .present) && decide ((t.entry st).presence = .lost) then
      match t.engagedOn st with
      | some h => (t.over p q).failRecord h .stationLost
      | none => t.over p q
    else t.over p q) = _
  simp only [failRecord_over, miss]
  split
  · cases t.engagedOn st <;> rfl
  · rfl

@[simp] theorem beginSlot_over : (s.over p q).beginSlot = s.beginSlot.over p q := by
  unfold beginSlot
  simp only [configured_over, scan_over, nextSlotKind_over, entry_over, putEntry_over]
  by_cases e : (s.configured && s.scan.slot.isNone) = true
  · simp only [e, if_true]; cases s.nextSlotKind <;> rfl
  · simp only [e]; rfl

@[simp] theorem endSlot_over (inTime : Bool) (chars : List LinkChar) :
    (s.over p q).endSlot inTime chars = (s.endSlot inTime chars).over p q := by
  unfold endSlot
  simp only [scan_over]
  split
  · rfl
  · next slot e =>
    have step : ({ s.over p q with scan := { station := s.scan.station + 1, slot := none } } : State) =
        ({ s with scan := { station := s.scan.station + 1, slot := none } } : State).over p q := rfl
    simp only [step, mapped_over, goodReply_over, miss_over]
    repeat' split
    all_goals rfl

/-! ### The Berth Line Inputs -/

@[simp] theorem startHold_over : (s.over p q).startHold = s.startHold.over p q :=
  s.forRecords_over p q (fun h s => s.pauseRecord_over p q h)

@[simp] theorem startWaitingFirst_over (order : Nat) (g : Fin 8) :
    startWaitingFirst order g (s.over p q) = (startWaitingFirst order g s).over p q := by
  unfold startWaitingFirst
  simp only [groupEntry_over, startWaiting_over]
  repeat' split
  all_goals rfl

@[simp] theorem endHold_over : (s.over p q).endHold = s.endHold.over p q := by
  unfold endHold
  have step : ({ s.over p q with holdEnds := s.holdEnds + 1 } : State) =
      ({ s with holdEnds := s.holdEnds + 1 } : State).over p q := rfl
  simp only [holdEnds_over, step]
  rw [forRecords_over _ p q (fun h s => s.unpauseRecord_over p q h),
    forGroups_over _ p q (fun g s => s.startWaitingFirst_over p q _ g),
    forRecords_over _ p q (fun h s => s.takeDeferredTrip_over p q h),
    forGroups_over _ p q (fun g s => s.startWaiting_over p q g)]

@[simp] theorem takeHoldChange_over (was : Bool) : (s.over p q).takeHoldChange was = (s.takeHoldChange was).over p q := by
  unfold takeHoldChange; simp only [berthHold_over, startHold_over, endHold_over]
  repeat' split
  all_goals rfl

@[simp] theorem writeSoftwareHold_over (on : Bool) :
    (s.over p q).writeSoftwareHold on = (s.writeSoftwareHold on).over p q :=
  takeHoldChange_over { s with softwareHold := on } p q s.berthHold

@[simp] theorem setEmergency_over : (s.over p q).setEmergency = s.setEmergency.over p q :=
  emergencyRelease_over { s with emergencyLatch := true } p q

@[simp] theorem takeConditionChanges_over (was : Conditions) :
    (s.over p q).takeConditionChanges was = (s.takeConditionChanges was).over p q := by
  have contact := s.forRecords_over p q (f := contactArrives) (fun h s => s.contactArrives_over p q h)
  have waiting := fun s : State => s.forGroups_over p q (f := startWaiting) (fun g s => s.startWaiting_over p q g)
  unfold takeConditionChanges
  simp only [conditions_over, contact, waiting, takeHoldChange_over, setEmergency_over, ite_over]

@[simp] theorem qualify_over (l : Fin 8) : (s.over p q).qualify l = (s.qualify l).over p q := by
  unfold qualify
  simp only [isInput_over, line_over, conditions_over, putLine_over, takeConditionChanges_over]
  repeat' split
  all_goals rfl

@[simp] theorem changePin_over (l : Fin 8) (level : Level) :
    (s.over p q).changePin l level = (s.changePin l level).over p q := by
  by_cases e : (s.line l).pin = level <;> simp [changePin, e]

@[simp] theorem takeUrgent_over (code : UrgentCode) : (s.over p q).takeUrgent code = (s.takeUrgent code).over p q := by
  cases code <;> simp [takeUrgent]

end State
end Sys2Proof.Machine
end

