-- ==== Sys2Proof/Laws/Requests.lean ====
section
/-! SUPPORT. A request's effect and answer do not depend on the port or the queue, and it changes neither: the law
`runRequest_over`, from one lemma for each request. -/

namespace Sys2Proof.Machine

/-- What taking a request leaves, with another port and another queue. -/
def Taken.over (t : Taken) (p : Port) (q : List Instr) : Taken := (t.1.over p q, t.2)

variable (s : State) (p : Port) (q : List Instr)

@[simp] theorem refuse_over (result : Result) : refuse (s.over p q) result = Taken.over (refuse s result) p q := rfl
@[simp] theorem doneWith_over (body : List Byte) : doneWith (s.over p q) body = Taken.over (doneWith s body) p q := rfl
@[simp] theorem doneCounts_over (acted skipped : Nat) :
    doneCounts (s.over p q) acted skipped = Taken.over (doneCounts s acted skipped) p q := rfl

theorem taken_ite_over {c : Prop} [Decidable c] (a b : Taken) :
    (if c then Taken.over a p q else Taken.over b p q) = Taken.over (if c then a else b) p q := by
  split <;> rfl

theorem withReference_over {k k' : Fin 32 → Record → Taken} (agree : ∀ h r, k h r = Taken.over (k' h r) p q) (ref : Byte) :
    withReference (s.over p q) ref k = Taken.over (withReference s ref k') p q := by
  by_cases named : s.names (Ref.ofByte ref) = true
  · simp only [withReference, State.names_over, State.record?_over, refuse_over, named, if_true]
    cases s.record? (Ref.ofByte ref).handle with
    | some r => exact agree _ r
    | none => rfl
  · simp [withReference, named]

/-! ### Requests on targets -/

/-- An action on one record that neither reads nor writes the port and the queue. -/
structure RecordAction.Inside (a : RecordAction) : Prop where
  refusal : ∀ (s : State) p q r, a.refusal (s.over p q) r = a.refusal s r
  act : ∀ (s : State) p q h, a.act (s.over p q) h = (a.act s h).over p q

theorem RecordAction.Inside.weigh {a : RecordAction} (inside : a.Inside) (acc : State × Nat × Nat) (h : Fin 32) :
    a.weigh (acc.1.over p q, acc.2) h = ((a.weigh acc h).1.over p q, (a.weigh acc h).2) := by
  unfold RecordAction.weigh
  simp only [State.record?_over, inside.refusal, inside.act]
  repeat' split
  all_goals rfl

theorem RecordAction.Inside.onMembers {a : RecordAction} (inside : a.Inside) (members : List (Fin 32)) :
    a.onMembers (s.over p q) members = Taken.over (a.onMembers s members) p q := by
  have fold : ∀ (acc : State × Nat × Nat), members.foldl a.weigh (acc.1.over p q, acc.2) =
      ((members.foldl a.weigh acc).1.over p q, (members.foldl a.weigh acc).2) := by
    induction members with
    | nil => intro acc; rfl
    | cons h l ih => intro acc; rw [List.foldl_cons, List.foldl_cons, inside.weigh, ih]
  simp only [RecordAction.onMembers, fold (s, 0, 0)]
  rfl

theorem RecordAction.Inside.onTarget {a : RecordAction} (inside : a.Inside) {whole : State → Option Result}
    (blind : ∀ (s : State) p q, whole (s.over p q) = whole s) (kind value : Byte) :
    a.onTarget whole (s.over p q) kind value = Taken.over (a.onTarget whole s kind value) p q := by
  unfold RecordAction.onTarget
  split
  · rfl
  · refine withReference_over s p q (fun h r => ?_) value
    simp only [blind, inside.refusal, inside.act]
    repeat' split
    all_goals rfl
  · simp only [blind, State.handlesWith_over, inside.onMembers]; split <;> rfl
  · simp only [blind, State.handlesWith_over, inside.onMembers]; split <;> rfl

theorem armAction_inside : armAction.Inside where
  refusal _ _ _ _ := rfl
  act s p q h := by
    show armRecord (s.over p q) h = (armRecord s h).over p q
    unfold armRecord
    simp only [State.modifyRecord_over, State.condition_over, State.enterPaying_over]
    split <;> rfl

theorem disarmAction_inside : disarmAction.Inside where
  refusal _ _ _ _ := rfl
  act s p q h := s.modifyRecord_over p q h _

theorem holdLineAction_inside : holdLineAction.Inside where
  refusal _ _ _ _ := rfl
  act s p q h := s.modifyRecord_over p q h _

theorem resumeAction_inside : resumeAction.Inside where
  refusal _ _ _ _ := rfl
  act s p q h := s.modifyRecord_over p q h _

theorem setAction_inside (p' b : Nat) : (setAction p' b).Inside where
  refusal _ _ _ _ := rfl
  act s p q h := s.modifyRecord_over p q h _

theorem applyAction_inside : applyAction.Inside where
  refusal _ _ _ _ := rfl
  act s p q h := by
    show applyRecord (s.over p q) h = (applyRecord s h).over p q
    refine s.withRecord_over p q (fun r => ?_) h
    simp only [State.putRecord_over, State.giveCommand_over, State.paused_over]
    repeat' split
    all_goals rfl

theorem retireAction_inside : retireAction.Inside where
  refusal _ _ _ _ := rfl
  act _ _ _ _ := rfl

/-! ### Each request -/

@[simp] theorem takeAssign_over (a : AssignBody) : takeAssign a (s.over p q) = Taken.over (takeAssign a s) p q := by
  unfold takeAssign
  cases a.place with
  | none => rfl
  | some place =>
    by_cases taken : s.stationTaken place.station a.callTag = true
    · simp [taken]
    · simp only [State.stationTaken_over, taken, State.lowestFree_over]
      cases s.lowestFree <;> rfl

@[simp] theorem takeArm_over (kind value : Byte) : takeArm kind value (s.over p q) = Taken.over (takeArm kind value s) p q :=
  armAction_inside.onTarget s p q (fun _ _ _ => rfl) kind value

@[simp] theorem takeDisarm_over (kind value : Byte) :
    takeDisarm kind value (s.over p q) = Taken.over (takeDisarm kind value s) p q :=
  disarmAction_inside.onTarget s p q (fun _ _ _ => rfl) kind value

@[simp] theorem takeSet_over (kind value : Byte) (p' b : Half) :
    takeSet kind value p' b (s.over p q) = Taken.over (takeSet kind value p' b s) p q :=
  (setAction_inside _ _).onTarget s p q (fun _ _ _ => rfl) kind value

@[simp] theorem takeApply_over (kind value : Byte) :
    takeApply kind value (s.over p q) = Taken.over (takeApply kind value s) p q :=
  applyAction_inside.onTarget s p q (fun _ _ _ => rfl) kind value

@[simp] theorem takeHoldLine_over (kind value : Byte) :
    takeHoldLine kind value (s.over p q) = Taken.over (takeHoldLine kind value s) p q :=
  holdLineAction_inside.onTarget s p q (fun _ _ _ => rfl) kind value

@[simp] theorem takeResume_over (kind value : Byte) :
    takeResume kind value (s.over p q) = Taken.over (takeResume kind value s) p q :=
  resumeAction_inside.onTarget s p q (fun _ _ _ => rfl) kind value

@[simp] theorem takeRelease_over (kind value : Byte) :
    takeRelease kind value (s.over p q) = Taken.over (takeRelease kind value s) p q := by
  unfold takeRelease
  split
  · rfl
  · refine withReference_over s p q (fun h r => ?_) value
    simp only [State.interlocked_over, State.enterReleasing_over, refuse_over, doneCounts_over]
    repeat' split
    all_goals rfl
  · unfold releaseGroup
    simp only [State.interlocked_over, State.groupEntry_over, State.startStage_over, State.handlesWith_over, refuse_over,
      doneCounts_over]
    repeat' split
    all_goals rfl
  · have fold : ∀ (l : List (Fin 8)) (acc : State × Nat), l.foldl releaseNextGroup (acc.1.over p q, acc.2) =
        ((l.foldl releaseNextGroup acc).1.over p q, (l.foldl releaseNextGroup acc).2) := by
      intro l
      induction l with
      | nil => intro acc; rfl
      | cons g l ih =>
        intro acc
        have one : releaseNextGroup (acc.1.over p q, acc.2) g =
            ((releaseNextGroup acc g).1.over p q, (releaseNextGroup acc g).2) := by
          unfold releaseNextGroup
          simp only [State.groupEntry_over, State.startStage_over]
          repeat' split
          all_goals rfl
        rw [List.foldl_cons, List.foldl_cons, one, ih]
    unfold releaseBerth
    simp only [State.interlocked_over, State.handlesWith_over, fold _ (s, 0), refuse_over, doneCounts_over]
    split <;> rfl

@[simp] theorem takeClearFault_over (ref : Byte) : takeClearFault ref (s.over p q) = Taken.over (takeClearFault ref s) p q := by
  refine withReference_over s p q (fun h r => ?_) ref
  simp only [State.entry_over, State.putRecord_over, State.enterRewinding_over, refuse_over, doneWith_over, taken_ite_over]

@[simp] theorem takeRetire_over (kind value : Byte) :
    takeRetire kind value (s.over p q) = Taken.over (takeRetire kind value s) p q := by
  unfold takeRetire
  split
  · rfl
  · exact retireAction_inside.onTarget s p q (fun _ _ _ => rfl) kind value

@[simp] theorem takeAbandon_over (ref : Byte) : takeAbandon ref (s.over p q) = Taken.over (takeAbandon ref s) p q := by
  refine withReference_over s p q (fun h r => ?_) ref
  simp only [State.giveCommand_over, State.ite_over, State.freeSlot_over, State.refOf_over, State.removeMember_over,
    doneCounts_over]

@[simp] theorem takeReadRecord_over (ref : Byte) : takeReadRecord ref (s.over p q) = Taken.over (takeReadRecord ref s) p q :=
  withReference_over s p q (k' := fun h r => doneWith s (r.snapshot (s.refOf h))) (fun _ _ => rfl) ref

@[simp] theorem takeFind_over (kind value : Byte) : takeFind kind value (s.over p q) = Taken.over (takeFind kind value s) p q := by
  have reply : ∀ test, findReply (s.over p q) kind value test = Taken.over (findReply s kind value test) p q :=
    fun _ => rfl
  unfold takeFind
  simp only [reply, refuse_over, taken_ite_over]
  split <;> rfl

@[simp] theorem takeNextNotice_over : takeNextNotice (s.over p q) = Taken.over (takeNextNotice s) p q := by
  unfold takeNextNotice
  simp only [State.lowestWith_over, State.noticesEnable_over]
  cases s.lowestWith fun r => r.notices.anyAlert with
  | some x => rfl
  | none =>
    by_cases enabled : s.noticesEnable = true
    · simp only [enabled, if_true]
      cases s.lowestWith fun r => r.notices.anyNotice <;> rfl
    · simp only [enabled]; rfl

@[simp] theorem takeAckEmergency_over : takeAckEmergency (s.over p q) = Taken.over (takeAckEmergency s) p q := by
  by_cases active : s.condition .emergency = true
  · simp [takeAckEmergency, active]
  · simp only [takeAckEmergency, State.condition_over, active]; rfl

@[simp] theorem takeStationQuery_over (station kind : Byte) :
    takeStationQuery station kind (s.over p q) = Taken.over (takeStationQuery station kind s) p q := by
  unfold takeStationQuery
  simp only [State.entry_over, State.kindAfterQuery_over, State.putEntry_over, refuse_over, doneWith_over, taken_ite_over]
  split <;> rfl

@[simp] theorem takeZero_over (station : Byte) : takeZero station (s.over p q) = Taken.over (takeZero station s) p q := by
  unfold takeZero
  simp only [State.entry_over, State.configured_over, State.engagedOn_over, State.putEntry_over, State.giveCommand_over,
    refuse_over, doneWith_over, taken_ite_over]
  split <;> rfl

@[simp] theorem takeProveStart_over (ref push : Byte) (settle : Half) (increment direction dwell : Byte) :
    takeProveStart ref push settle increment direction dwell (s.over p q) =
      Taken.over (takeProveStart ref push settle increment direction dwell s) p q := by
  refine withReference_over s p q (fun h r => ?_) ref
  simp only [refuse_over, doneWith_over, State.putRecord_over, taken_ite_over]
  split <;> rfl

@[simp] theorem takeProveRelease_over (ref : Byte) :
    takeProveRelease ref (s.over p q) = Taken.over (takeProveRelease ref s) p q := by
  refine withReference_over s p q (fun h r => ?_) ref
  simp only [refuse_over, doneWith_over, State.putRecord_over, taken_ite_over]
  split <;> rfl

@[simp] theorem takeProveStop_over (ref : Byte) : takeProveStop ref (s.over p q) = Taken.over (takeProveStop ref s) p q := by
  refine withReference_over s p q (fun h r => ?_) ref
  simp only [refuse_over, doneWith_over, State.putRecord_over, taken_ite_over]

@[simp] theorem takeReadBerth_over : takeReadBerth (s.over p q) = Taken.over (takeReadBerth s) p q := rfl

@[simp] theorem takeSetOutputs_over (latches : Byte) :
    takeSetOutputs latches (s.over p q) = Taken.over (takeSetOutputs latches s) p q := by
  have write : (s.over p q).writeLatches latches = (s.writeLatches latches).over p q :=
    s.foldl_over p q (fun s l => by simp only [State.line_over, State.putLine_over]) _
  unfold takeSetOutputs
  rw [write, doneWith_over]

theorem removeStations_over (old : BitVec 24) : (s.over p q).removeStations old = (s.removeStations old).over p q :=
  s.foldl_over p q (fun s st => by
    by_cases gone : (old.getLsbD st && !s.mapped st) = true
    · simp only [State.mapped_over, State.entry_over, State.putEntry_over, gone, if_true]
    · simp only [State.mapped_over, gone]; rfl) _

theorem reconfigureLines_over (old : Vector LineConfig 8) :
    (s.over p q).reconfigureLines old = (s.reconfigureLines old).over p q :=
  s.foldl_over p q (fun s l => by simp only [State.line_over, State.isInput_over, State.putLine_over]) _

@[simp] theorem configureEffect_over (body : BerthBody) :
    configureEffect body (s.over p q) = (configureEffect body s).over p q := by
  let written : State := { s with config := body.config, configured := true }
  have lines : ((written.over p q).removeStations s.config.map).reconfigureLines s.config.lines =
      ((written.removeStations s.config.map).reconfigureLines s.config.lines).over p q := by
    rw [removeStations_over, reconfigureLines_over]
  show State.takeConditionChanges (if s.configured then _ else _) s.conditions = _
  by_cases flag : s.configured = true
  · rw [if_pos flag]
    refine (congrArg (fun t => State.takeConditionChanges t s.conditions) lines).trans ?_
    rw [State.takeConditionChanges_over]
    simp only [configureEffect, flag, if_true]
    rfl
  · rw [if_neg flag]
    refine (congrArg (fun t : State => State.takeConditionChanges { t with scan := { station := 0, slot := none } }
      s.conditions) lines).trans ?_
    refine (State.takeConditionChanges_over { ((written.removeStations s.config.map).reconfigureLines s.config.lines) with
      scan := { station := 0, slot := none } } p q s.conditions).trans ?_
    simp only [configureEffect, flag]
    rfl

@[simp] theorem takeConfigureBerth_over (body : BerthBody) :
    takeConfigureBerth body (s.over p q) = Taken.over (takeConfigureBerth body s) p q := by
  have same : configureRefusal body (s.over p q) = configureRefusal body s := rfl
  unfold takeConfigureBerth
  simp only [same, configureEffect_over, doneWith_over, refuse_over]
  split <;> rfl

/-! ### All of them -/

/-- A request does the same and is answered the same whatever the port and the queue hold, and leaves both alone. -/
theorem runRequest_over (code : RequestCode) (body : List Byte) :
    runRequest code body (s.over p q) = Taken.over (runRequest code body s) p q := by
  cases code <;> simp [runRequest]

theorem answerRequest_over (code : Byte) (body : List Byte) :
    answerRequest code body (s.over p q) = Taken.over (answerRequest code body s) p q := by
  unfold answerRequest
  simp only [runRequest_over, refuse_over]
  split <;> rfl

@[simp] theorem answerRequest_port (code : Byte) (body : List Byte) : (answerRequest code body s).1.port = s.port :=
  congrArg (fun t => t.1.port) (answerRequest_over s s.port s.pending code body)

@[simp] theorem answerRequest_pending (code : Byte) (body : List Byte) :
    (answerRequest code body s).1.pending = s.pending :=
  congrArg (fun t => t.1.pending) (answerRequest_over s s.port s.pending code body)

end Sys2Proof.Machine
end

