-- ==== Sys2Proof/Laws/Port.lean ====
section
/-! SUPPORT. What the port does with a request message, said once: a request row written into a waiting mailbox is taken and
answered, and its effect is that of `runRequest`. -/

namespace Sys2Proof.Machine

/-- The state in which the mailbox holds the bytes of a message begun. -/
def State.holding (s : State) (bytes : List Byte) : State :=
  { s with port := { s.port with mailbox := bytes, reply := .empty } }

theorem Port.Awaits.open {p : Port} (waits : p.Awaits) : p.requestOpen = true := by
  simp [Port.requestOpen, waits.notExecuting, waits.notReady]

variable {s : State}

/-- A byte written while a message is being collected goes to the mailbox. -/
theorem State.writeByte_holding (idle : s.port.executing = none) (bytes : List Byte) (b : Byte) :
    (s.holding bytes).writeByte b = (s.holding bytes).fillMailbox (bytes ++ [b]) := by
  have opened : (s.holding bytes).port.requestOpen = true := by
    simp [State.holding, Port.requestOpen, Port.replyReady, idle]
  simp only [State.writeByte, opened, if_true]
  rfl

/-- The body bytes of a message are collected, and the last of them completes it. -/
theorem State.writeBytes_complete (idle : s.port.executing = none) (code length : Byte) (fits : length.toNat ≤ 30)
    (body rest : List Byte) (more : rest ≠ []) (counted : body.length + rest.length = length.toNat) :
    ∃ bytes, rest.foldl State.writeByte (s.holding (code :: length :: body)) =
      (s.holding bytes).takeRequest code (body ++ rest) := by
  have long : ¬ 30 < length.toNat := by omega
  induction rest generalizing body with
  | nil => exact absurd rfl more
  | cons b rest ih =>
    rw [List.foldl_cons, State.writeByte_holding idle]
    cases rest with
    | nil =>
      have full : (body ++ [b]).length = length.toNat := by simpa using counted
      refine ⟨code :: length :: body, ?_⟩
      simp only [List.cons_append, State.fillMailbox, long, if_false, full, if_true, List.foldl_nil]
    | cons b' rest =>
      have short : (body ++ [b]).length ≠ length.toNat := by simp at counted ⊢; omega
      have one : (s.holding (code :: length :: body)).fillMailbox (code :: length :: body ++ [b]) =
          s.holding (code :: length :: (body ++ [b])) := by
        simp only [List.cons_append, State.fillMailbox, long, if_false, short]; rfl
      rw [one]
      obtain ⟨bytes, e⟩ := ih (body ++ [b]) (by simp) (by simp at counted ⊢; omega)
      exact ⟨bytes, by rw [e]; simp⟩

/-- A whole message of a fitting length, written into a waiting mailbox, is taken with its last byte. -/
theorem State.sendMessage_awaited (waits : s.port.Awaits) (code : Byte) (body : List Byte) (fits : body.length ≤ 30) :
    ∃ bytes, s.sendMessage code body = (s.holding bytes).takeRequest code body := by
  have len : (BitVec.ofNat 8 body.length).toNat = body.length := by simp; omega
  have long : ¬ 30 < (BitVec.ofNat 8 body.length).toNat := by omega
  have whole : remainingBytes (messageBytes code body) s.port.mailbox = messageBytes code body := by
    simp [remainingBytes, waits.mailbox]
  have first : s.writeByte code = s.holding [code] := by
    simp [State.writeByte, waits.open, waits.mailbox, State.fillMailbox, State.holding, Port.openForByte]
  unfold State.sendMessage
  rw [whole, messageBytes, List.foldl_cons, first, List.foldl_cons, State.writeByte_holding waits.notExecuting]
  cases body with
  | nil => exact ⟨[code], by simp [State.fillMailbox]⟩
  | cons b body =>
    have second : (s.holding [code]).fillMailbox ([code] ++ [BitVec.ofNat 8 (b :: body).length]) =
        s.holding [code, BitVec.ofNat 8 (b :: body).length] := by
      have short : ([] : List Byte).length ≠ (BitVec.ofNat 8 (b :: body).length).toNat := by rw [len]; simp
      simp only [List.cons_append, List.nil_append, State.fillMailbox, long, if_false, short]; rfl
    rw [second]
    exact State.writeBytes_complete waits.notExecuting code _ (by omega) [] (b :: body) (by simp) (by rw [len]; simp)

/-- A message taken is answered by the block that owns it: the state is what the block leaves, and the port executes the
request with the block's answer. -/
theorem State.takeRequest_holding (bytes : List Byte) (code : Byte) (body : List Byte) :
    (s.holding bytes).takeRequest code body =
      { (answerRequest code body s).1 with
        port := { s.port with
          mailbox := [], reply := .empty,
          executing := some { code := code, answer := (answerRequest code body s).2, aborted := false } } } := by
  have e := answerRequest_over s { s.port with mailbox := bytes, reply := .empty } s.pending code body
  have out : (answerRequest code body (s.holding bytes)).2 = (answerRequest code body s).2 := by
    show (answerRequest code body (s.over _ s.pending)).2 = _
    rw [e]; rfl
  have left : (answerRequest code body (s.holding bytes)).1 =
      (answerRequest code body s).1.over { s.port with mailbox := bytes, reply := .empty } s.pending := by
    show (answerRequest code body (s.over _ s.pending)).1 = _
    rw [e]; rfl
  unfold State.takeRequest
  simp only [out, left, Port.executes]
  have pending := answerRequest_pending s code body
  cases h : (answerRequest code body s).1
  rw [h] at pending
  simp only [State.over] at pending ⊢
  rw [pending]

/-- The law of the request rows: written into a waiting mailbox, a request of the right length is taken, its block's effect
is made, and it is answered. -/
theorem sendRequest_awaited (waits : s.port.Awaits) (code : RequestCode) (body : List Byte)
    (length : body.length = code.bodyLength) :
    sendRequest code body s = .next ((runRequest code body s).1.answering s code (runRequest code body s).2.result
      (runRequest code body s).2.body) := by
  have fits : body.length ≤ 30 := by rw [length]; cases code <;> decide
  have named : headerRequest code.byte body.length = some code := by rw [length]; cases code <;> decide
  obtain ⟨bytes, sent⟩ := State.sendMessage_awaited waits code.byte body fits
  rw [sendRequest, sent, State.takeRequest_holding]
  simp only [answerRequest, named]
  rfl

/-- The same law with the block's answer at hand. -/
theorem sendRequest_answered (waits : s.port.Awaits) (code : RequestCode) (body : List Byte)
    (length : body.length = code.bodyLength) {t : State} {result : Result} {out : List Byte}
    (taken : runRequest code body s = (t, { result := result, body := out })) :
    sendRequest code body s = .next (t.answering s code result out) := by
  rw [sendRequest_awaited waits code body length, taken]

/-- A message with a refused header, written into a waiting mailbox, is answered with BAD REQUEST and reaches no block. -/
theorem State.sendMessage_refused (waits : s.port.Awaits) (code : Byte) (body : List Byte) (fits : body.length ≤ 30)
    (unnamed : headerRequest code body.length = none) :
    s.sendMessage code body =
      { s with port := { s.port with
        mailbox := [], reply := .empty,
        executing := some { code := code, answer := { result := .badRequest, body := [] }, aborted := false } } } := by
  obtain ⟨bytes, sent⟩ := State.sendMessage_awaited waits code body fits
  rw [sent, State.takeRequest_holding]
  simp only [answerRequest, unnamed]
  rfl

end Sys2Proof.Machine
end

