-- ==== Sys2Proof/Laws/Records.lean ====
section
/-! SUPPORT. Everything a command can do to a line record, said once: `Record.Kept P` lists each rewriting of a record that
the rules know, with what they know of the record before it, and `exec_keeps_records` says that a predicate kept by all of
them is kept by every command. -/

namespace Sys2Proof.Machine

/-- A deadline that is not absent. -/
def Deadline.held : Deadline → Prop
  | .absent => False
  | _ => True

/-- A predicate on records that every rewriting of a record keeps. -/
structure Record.Kept (P : Record → Prop) : Prop where
  /-- ASSIGN (R11). -/
  created : ∀ (a : AssignBody) place, a.place = some place → P (a.newRecord place)
  /-- ARM (R32). -/
  armed : ∀ r, P r → r.state = .prepared → P { r with state := .armed, deadline := .absent }
  /-- DISARM and the returns of an ARMED record (R34, R44, R45, R109). -/
  disarmed : ∀ r, P r → r.state = .armed → P { r with state := .prepared, deadline := .absent }
  /-- Entry to PAYING (R35). -/
  paying : ∀ r d, P r → r.state = .armed → d.held → P { r with state := .paying, deadline := d }
  /-- Entry to MAKING_FAST (R36). -/
  makingFast : ∀ r n, P r → r.state = .paying → P { r with state := .makingFast, deadline := .running n }
  /-- Entry to HAULING (R37). -/
  hauling : ∀ r d, P r → r.state = .makingFast → d.held → P { r with state := .hauling, deadline := d }
  /-- Entry to TENDING from HAULING (R38). -/
  tensionReached : ∀ r, P r → r.state = .hauling → P r.tensionReached
  /-- Entry to RELEASING (R97). -/
  releasing : ∀ r n, P r → P (r.releasing n)
  /-- Entry to REWINDING (R106, R46). -/
  rewinding : ∀ r d, P r → r.state = .releasing ∨ r.state = .fault → d.held →
    P { r with state := .rewinding, faultCause := none, deadline := d }
  /-- Entry to STOWED (R108). -/
  stowed : ∀ r, P r → r.state = .rewinding → P (Record.raise { r with state := .stowed, deadline := .absent } .stowed)
  /-- Entry to FAULT (R26). -/
  faulted : ∀ r cause, P r → P (r.faulted cause)
  /-- HOLD LINE (R40). -/
  heldByRequest : ∀ r, P r → r.state = .tending → P r.heldByRequest
  /-- RESUME (R41). -/
  resumed : ∀ r, P r → r.state = .held → P r.resumed
  /-- CLEAR FAULT to HELD (R46). -/
  cleared : ∀ r, P r → r.state = .fault → P { r with state := .held, faultCause := none, deadline := .absent }
  /-- A moving record's deadline frozen, thawed or set back (R29, R47, R48). -/
  deadline : ∀ r d, P r → r.state.moving = true → d.held → P { r with deadline := d }
  /-- The freezing of a moving record's deadline (R47). -/
  frozen : ∀ r, P r → r.state.moving = true → P { r with deadline := r.deadline.freeze }
  /-- The thawing of a moving record's deadline (R48). -/
  thawed : ∀ r, P r → r.state.moving = true → P { r with deadline := r.deadline.thaw }
  /-- A sample's M and L, of an intact reply (R24, R119). -/
  measured : ∀ r m len, P r → m ≤ 8191 → len ≤ 16383 → P { r with m := m, len := len }
  /-- A step completed (R73, R74). -/
  completed : ∀ r, P r → P r.completeStep
  /-- The overload episode (R57). -/
  noteOverload : ∀ r, P r → P r.noteOverload
  /-- The slack run (R58). -/
  countSlack : ∀ r, P r → P r.countSlack
  /-- The offset's move in PUSH (R152). -/
  movePush : ∀ r, P r → P r.movePush
  /-- A vote (R61). -/
  voted : ∀ r dir w, P r → r.state = .tending → P (r.voted dir w)
  /-- A sample counted in its proving phase (R152 to R154). -/
  countProving : ∀ r inBand, P r → P (r.countProving inBand)
  /-- A trip deferred (R68, R69). -/
  deferred : ∀ r, P r → r.state = .tending → r.c = r.t → P { r with tripDeferred := true }
  /-- A deferred trip taken up (R71). -/
  takenUp : ∀ r, P r → P { r with tripDeferred := false }
  /-- A trip at a length limit (R66). -/
  atLimit : ∀ r dir, P r → P (r.atLimit dir)
  /-- A step issued (R65). -/
  issued : ∀ r dir, P r → r.state = .tending → r.lean = some dir → r.stepAmount dir ≠ 0 →
    P (r.issueStep dir (r.stepAmount dir))
  /-- SET (R83). -/
  pendingSet : ∀ r part, P r → part.p ≤ 8191 → part.b ≤ 8191 → P { r with pending := some part }
  /-- APPLY in a state other than TENDING (R87). -/
  applied : ∀ r part, P r → r.state ≠ .tending → P (r.applied part)
  /-- APPLY in TENDING (R86). -/
  appliedTending : ∀ r part, P r → r.state = .tending → P { (r.applied part).restarted with tripDeferred := false }
  /-- PROVE START (R150). -/
  proveStarted : ∀ r push settle increment raises dwells, P r → r.state = .tending →
    P { r with proving := some (newProving push settle increment raises dwells) }
  /-- PROVE RELEASE (R153). -/
  proveReleased : ∀ r p, P r → r.proving = some p → P { r with proving := some p.settling }
  /-- PROVE STOP (R156). -/
  proveStopped : ∀ r, P r → P { r with proving := none }
  /-- A notice set after a raising or a report (R158, R161). -/
  notices : ∀ r n, P r → P { r with notices := n }
  /-- A warm reset (R21). -/
  warmReset : ∀ r, P r → P r.afterWarmReset
  /-- Units of 0.1 s (R27). -/
  pass : ∀ elapsed r, P r → P (r.pass elapsed)

variable {P : Record → Prop} {s : State}

namespace State.EachRecord

theorem of_table {t : State} (all : s.EachRecord P) (same : t.table = s.table) : t.EachRecord P := by
  intro h r at_h
  refine all h r ?_
  rw [← at_h]; unfold State.record?; rw [same]

theorem put {h : Fin 32} {r : Record} (all : s.EachRecord P) (new : P r) : (s.putRecord h r).EachRecord P := by
  intro h' r' at_h
  rw [State.record?_putRecord] at at_h
  split at at_h
  · cases at_h; exact new
  · exact all h' r' at_h

theorem give (all : s.EachRecord P) (st : Fin 24) (c : Command) : (s.giveCommand st c).EachRecord P :=
  all.of_table (by simp)

theorem free (all : s.EachRecord P) (h : Fin 32) : (s.freeSlot h).EachRecord P := by
  intro h' r' at_h
  rw [State.record?_freeSlot] at at_h
  split at at_h
  · cases at_h
  · exact all h' r' at_h

theorem entry (all : s.EachRecord P) (st : Fin 24) (e : StationEntry) : (s.putEntry st e).EachRecord P := all

theorem group (all : s.EachRecord P) (g : Fin 8) (e : GroupEntry) : (s.putGroup g e).EachRecord P := all

theorem line (all : s.EachRecord P) (l : Fin 8) (b : BerthLine) : (s.putLine l b).EachRecord P := all

theorem withRecord {h : Fin 32} {f : Record → State} (all : s.EachRecord P)
    (one : ∀ r, s.record? h = some r → P r → (f r).EachRecord P) : (s.withRecord h f).EachRecord P := by
  unfold State.withRecord
  split
  · next r at_h => exact one r at_h (all h r at_h)
  · exact all

theorem modify {h : Fin 32} {f : Record → Record} (all : s.EachRecord P)
    (one : ∀ r, s.record? h = some r → P r → P (f r)) : (s.modifyRecord h f).EachRecord P :=
  all.withRecord fun r at_h good => all.put (one r at_h good)

end State.EachRecord

open State.EachRecord

/-! ### The Release Sequencer -/

section
variable (K : Record.Kept P)
include K

theorem State.enterReleasing_keeps (h : Fin 32) (all : s.EachRecord P) : (s.enterReleasing h).EachRecord P :=
  all.withRecord fun r _ good => (all.put (K.releasing r _ good)).give _ _

theorem State.startStage_keeps (g : Fin 8) (stages : List Stage) (all : s.EachRecord P) :
    (State.startStage g stages s).EachRecord P := by
  induction stages with
  | nil => exact all.group _ _
  | cons stage rest ih =>
    unfold State.startStage
    split
    · exact ih
    · exact foldl_keeps (fun s : State => s.EachRecord P) _ (fun s h a => s.enterReleasing_keeps K h a) _ _
        (all.group _ _)

theorem State.stageEnded_keeps (g : Fin 8) (ended : Stage) (all : s.EachRecord P) :
    (s.stageEnded g ended).EachRecord P := by
  unfold State.stageEnded
  split
  · exact all.group _ _
  · exact State.startStage_keeps K g _ all

theorem State.removeMember_keeps (g : Fin 8) (ref : Ref) (all : s.EachRecord P) :
    (s.removeMember g ref).EachRecord P := by
  unfold State.removeMember
  split
  · split
    · split
      · exact State.stageEnded_keeps K g _ all
      · exact all.group _ _
    · exact all
  · exact all

theorem State.startWaiting_keeps (g : Fin 8) (all : s.EachRecord P) : (State.startWaiting g s).EachRecord P := by
  unfold State.startWaiting
  split
  · split
    · exact all
    · exact State.startStage_keeps K g _ all
  · exact all

theorem State.emergencyRelease_keeps (all : s.EachRecord P) : s.emergencyRelease.EachRecord P := by
  unfold State.emergencyRelease
  refine State.forRecords_keeps (fun s => s.EachRecord P) _ (fun h s all => ?_) _
    (State.forGroups_keeps (fun s => s.EachRecord P) _ (fun g s all => all.group g _) _ all)
  refine all.withRecord fun r at_h good => ?_
  cases e : r.state
  case armed => exact all.put (K.notices _ _ (K.disarmed r good e))
  all_goals first
    | exact all
    | exact (s.enterReleasing_keeps K h all).modify fun r _ good => K.notices r _ good

/-! ### The Line State Unit -/

theorem State.enterFault_keeps (h : Fin 32) (cause : FaultCause) (all : s.EachRecord P) :
    (s.enterFault h cause).EachRecord P :=
  all.withRecord fun r _ good => State.removeMember_keeps K _ _ ((all.put (K.faulted r cause good)).give _ _)

theorem State.failRecord_keeps (h : Fin 32) (cause : FaultCause) (all : s.EachRecord P) :
    (s.failRecord h cause).EachRecord P := by
  refine all.withRecord fun r _ good => ?_
  cases e : r.state
  case armed => exact all.put (K.disarmed r good e)
  all_goals first
    | exact all
    | exact State.enterFault_keeps K h cause all

omit K in
theorem State.enterMoving_keeps (h : Fin 32) (r : Record) (time : Nat)
    (entry : ∀ d : Deadline, d.held → P { r with deadline := d }) (all : s.EachRecord P) :
    (s.enterMoving h r time).EachRecord P := by
  unfold State.enterMoving
  split
  · exact (all.put (entry (.frozen time) trivial)).give _ _
  · exact (all.put (entry (.running time) trivial)).give _ _

theorem State.enterPaying_keeps (h : Fin 32) (armed : ∀ r, s.record? h = some r → r.state = .armed)
    (all : s.EachRecord P) : (s.enterPaying h).EachRecord P :=
  all.withRecord fun r at_h good => State.enterMoving_keeps h _ _ (fun d held => K.paying r d good (armed r at_h) held) all

theorem State.enterHauling_keeps (h : Fin 32) (makingFast : ∀ r, s.record? h = some r → r.state = .makingFast)
    (all : s.EachRecord P) : (s.enterHauling h).EachRecord P :=
  all.withRecord fun r at_h good =>
    State.enterMoving_keeps h _ _ (fun d held => K.hauling r d good (makingFast r at_h) held) all

theorem State.enterRewinding_keeps (h : Fin 32)
    (from' : ∀ r, s.record? h = some r → r.state = .releasing ∨ r.state = .fault) (all : s.EachRecord P) :
    (s.enterRewinding h).EachRecord P :=
  all.withRecord fun r at_h good => State.removeMember_keeps K _ _
    (State.enterMoving_keeps h _ _ (fun d held => K.rewinding r d good (from' r at_h) held) all)

theorem State.contactArrives_keeps (h : Fin 32) (all : s.EachRecord P) : (State.contactArrives h s).EachRecord P := by
  unfold State.contactArrives
  split
  · next holds =>
    refine State.enterPaying_keeps K h (fun r at_h => ?_) all
    obtain ⟨r', at', e⟩ := (State.holds_iff ..).mp holds
    rw [at_h] at at'; cases at'; simpa using e
  · exact all

theorem State.pauseRecord_keeps (h : Fin 32) (all : s.EachRecord P) : (State.pauseRecord h s).EachRecord P := by
  refine all.withRecord fun r at_h good => ?_
  split
  · next moving => exact (all.put (K.frozen r good moving)).give _ _
  · exact all

theorem State.unpauseRecord_keeps (h : Fin 32) (all : s.EachRecord P) : (State.unpauseRecord h s).EachRecord P := by
  refine all.withRecord fun r at_h good => ?_
  split
  · next moving => exact (all.put (K.thawed r good moving)).give _ _
  · exact all

theorem State.actOnFlags_keeps (h : Fin 32) (r : Record) (before : Nat) (f : Frame) (at_h : s.record? h = some r)
    (all : s.EachRecord P) : (s.actOnFlags h r before f).EachRecord P := by
  have good := all h r at_h
  have only : ∀ {Q : Record → Prop}, Q r → ∀ r', s.record? h = some r' → Q r' := fun q r' at' => by
    rw [at_h] at at'; cases at'; exact q
  unfold State.actOnFlags
  cases e : r.state
  case paying =>
    dsimp only
    split
    · refine all.modify fun r' at' good => K.makingFast r' _ good (only (Q := fun r => r.state = .paying) e r' at')
    · exact all
  case makingFast =>
    dsimp only
    split
    · exact State.enterHauling_keeps K h (only (Q := fun r => r.state = .makingFast) e) all
    · exact all
  case hauling =>
    dsimp only
    split
    · exact all.put (K.tensionReached r good e)
    · split
      · exact State.enterFault_keeps K h _ all
      · exact all
  case releasing =>
    dsimp only
    split
    · exact State.enterRewinding_keeps K h (only (Q := fun r => r.state = .releasing ∨ r.state = .fault) (.inl e)) all
    · exact all
  case rewinding =>
    dsimp only
    split
    · exact all.put (K.stowed r good e)
    · split
      · have back := K.deadline r (.running s.config.timeouts.stall) good (by rw [e]; rfl) trivial
        rw [e] at back
        exact all.put back
      · exact all
  all_goals exact all

/-! ### The Tension Regulator -/

/-- A trip keeps the predicate, and its record stays TENDING. -/
theorem State.takeTrip_keeps (h : Fin 32)
    (tending : ∀ r, s.record? h = some r → r.state = .tending ∧ r.c = r.t) (all : s.EachRecord P) :
    (s.takeTrip h).EachRecord P := by
  refine all.withRecord fun r at_h good => ?_
  obtain ⟨state, full⟩ := tending r at_h
  split
  · exact all
  · next dir lean =>
    split
    · exact all.put (K.atLimit r dir good)
    · next amount =>
      split
      · exact all.put (K.deferred r good state full)
      · exact (all.put (K.issued r dir good state lean amount)).give _ _

theorem State.trip_keeps (h : Fin 32) (tending : ∀ r, s.record? h = some r → r.state = .tending ∧ r.c = r.t)
    (all : s.EachRecord P) : (s.trip h).EachRecord P := by
  unfold State.trip
  split
  · exact all.modify fun r at_h good => K.deferred r good (tending r at_h).1 (tending r at_h).2
  · exact State.takeTrip_keeps K h tending all

theorem State.takeDeferredTrip_keeps (h : Fin 32) (all : s.EachRecord P) :
    (State.takeDeferredTrip h s).EachRecord P := by
  unfold State.takeDeferredTrip
  split
  · next holds =>
    obtain ⟨r, at_h, e⟩ := (State.holds_iff ..).mp holds
    simp only [Bool.and_eq_true, decide_eq_true_eq] at e
    refine State.takeTrip_keeps K h (fun r' at' => ?_) (all.modify fun r _ good => K.takenUp r good)
    rw [State.modifyRecord_some at_h, State.record?_putRecord_self] at at'
    cases at'
    exact ⟨e.1.1.1, e.1.2⟩
  · exact all

theorem State.voteSample_keeps (h : Fin 32) (r : Record) (state : r.state = .tending) (good : P r)
    (all : s.EachRecord P) : (s.voteSample h r).EachRecord P := by
  unfold State.voteSample
  split
  · exact all.put (K.countProving r _ good)
  · have voted := all.put (h := h) (K.voted r r.voteDir r.voteWeight good state)
    have tending : (r.voted r.voteDir r.voteWeight).state = .tending := by
      unfold Record.voted; repeat' split
      all_goals exact state
    dsimp only
    split
    · next full =>
      refine (State.trip_keeps K h (fun r' at' => ?_) voted).modify fun r _ good => K.countProving r _ good
      rw [State.record?_putRecord_self] at at'; cases at'; exact ⟨tending, full⟩
    · exact voted.modify fun r _ good => K.countProving r _ good

omit K in
theorem Record.state_completeStep (r : Record) : r.completeStep.state = r.state := by
  unfold Record.completeStep; split <;> rfl

omit K in
theorem Record.state_noteOverload (r : Record) : r.noteOverload.state = r.state := by
  unfold Record.noteOverload; repeat' split
  all_goals rfl

omit K in
theorem Record.state_movePush (r : Record) : r.movePush.state = r.state := by
  unfold Record.movePush; repeat' split
  all_goals rfl

theorem State.regulateTending_keeps (h : Fin 32) (r : Record) (done : Bool) (state : r.state = .tending) (good : P r)
    (all : s.EachRecord P) : (s.regulateTending h r done).EachRecord P := by
  have one : P (if done = true then r.completeStep else r) ∧
      (if done = true then r.completeStep else r).state = .tending := by
    split
    · exact ⟨K.completed r good, by rw [Record.state_completeStep, state]⟩
    · exact ⟨good, state⟩
  unfold State.regulateTending
  generalize (if done = true then r.completeStep else r) = r1 at one ⊢
  have two := K.noteOverload r1 one.1
  have three := K.countSlack _ two
  dsimp only
  split
  · split
    · exact State.enterFault_keeps K h _ (all.put three)
    · refine State.voteSample_keeps K h _ ?_ (K.movePush _ three) all
      rw [Record.state_movePush]
      show r1.noteOverload.state = _
      rw [Record.state_noteOverload, one.2]
  · exact all.put two

theorem State.regulateHeld_keeps (h : Fin 32) (r : Record) (done : Bool) (good : P r) (all : s.EachRecord P) :
    (s.regulateHeld h r done).EachRecord P := by
  unfold State.regulateHeld
  split
  · exact all.put (K.completed r good)
  · exact all.put good

/-! ### The Station Link Controller -/

omit K in
/-- Two bytes whose high one is below `n` make a half below `256 * n`. -/
theorem append_lt {hi lo : Byte} {n : Nat} (high : hi.toNat < n) : (hi ++ lo : Half).toNat < 256 * n := by
  have low := lo.isLt
  rw [BitVec.toNat_append, ← Nat.shiftLeft_add_eq_or_of_lt low, Nat.shiftLeft_eq]
  omega

omit K in
/-- A judged reply carries a tension and a length within their ranges (R119). -/
theorem replyFrame_ranges {chars : List LinkChar} {f : Frame} (e : replyFrame chars = some f) :
    f.tension ≤ 8191 ∧ f.length ≤ 16383 := by
  unfold replyFrame at e
  split at e
  · split at e
    · next ok =>
      cases e
      simp only [Bool.and_eq_true, decide_eq_true_eq] at ok
      obtain ⟨⟨-, m⟩, l⟩ := ok
      have m := congrArg BitVec.toNat m
      have l := congrArg BitVec.toNat l
      simp only [BitVec.extractLsb'_toNat, Nat.shiftRight_eq_div_pow, BitVec.ofNat_eq_ofNat, BitVec.toNat_ofNat,
        Nat.zero_mod] at m l
      exact ⟨Nat.le_of_lt_succ (append_lt (n := 32) (by omega)), Nat.le_of_lt_succ (append_lt (n := 64) (by omega))⟩
    · cases e
  · cases e

omit K in
theorem LinkSlot.judge_ranges {slot : LinkSlot} {inTime : Bool} {chars extra : List LinkChar} {f : Frame}
    (e : slot.judge inTime chars = some (f, extra)) : f.tension ≤ 8191 ∧ f.length ≤ 16383 := by
  unfold LinkSlot.judge at e
  split at e
  · cases e
  · next at6 _ => split at e <;> cases e; exact replyFrame_ranges at6
  · next at6 _ _ => split at e <;> cases e; exact replyFrame_ranges at6
  · cases e

theorem State.sample_keeps (h : Fin 32) (f : Frame) (tension : f.tension ≤ 8191) (length : f.length ≤ 16383)
    (all : s.EachRecord P) : (s.sample h f).EachRecord P := by
  refine all.withRecord fun old at_h good => ?_
  have new := K.measured old f.tension f.length good tension length
  have put := all.put (h := h) new
  dsimp only
  split
  · exact State.failRecord_keeps K h _ put
  · split
    · next state => exact State.regulateTending_keeps K h _ _ state new put
    · exact State.regulateHeld_keeps K h _ _ new put
    · split
      · exact State.actOnFlags_keeps K h _ _ _ (by simp) put
      · exact put

theorem State.endSlot_keeps (inTime : Bool) (chars : List LinkChar) (all : s.EachRecord P) :
    (s.endSlot inTime chars).EachRecord P := by
  unfold State.endSlot
  split
  · exact all
  · have moved : ({ s with scan := { station := s.scan.station + 1, slot := none } } : State).EachRecord P :=
      all.of_table rfl
    dsimp only
    split
    · exact moved
    · split
      · next judged =>
        unfold State.goodReply
        dsimp only
        split
        · exact State.sample_keeps K _ _ (LinkSlot.judge_ranges judged).1 (LinkSlot.judge_ranges judged).2
            (moved.entry _ _)
        · exact moved.entry _ _
      · unfold State.miss
        dsimp only
        split
        · split
          · exact State.failRecord_keeps K _ _ (moved.entry _ _)
          · exact moved.entry _ _
        · exact moved.entry _ _

omit K in
theorem State.beginSlot_keeps (all : s.EachRecord P) : s.beginSlot.EachRecord P := by
  unfold State.beginSlot
  split
  · refine all.of_table ?_
    dsimp only
    split <;> rfl
  · exact all

omit K in
theorem State.mapRecords_keeps {f : Record → Record} (one : ∀ r, P r → P (f r)) (all : s.EachRecord P) {t : State}
    (table : t.table = mapEntries (fun slot => { slot with record := slot.record.map f }) s.table) : t.EachRecord P := by
  intro h r at_h
  have e : t.record? h = (s.record? h).map f := by
    unfold State.record?
    rw [table, getElem_mapEntries]
  rw [e, Option.map_eq_some_iff] at at_h
  obtain ⟨r', at', e⟩ := at_h
  cases e
  exact one r' (all h r' at')

theorem State.passTime_keeps (elapsed : Nat) (all : s.EachRecord P) : (s.passTime elapsed).EachRecord P :=
  State.mapRecords_keeps (K.pass elapsed) all (by simp only [State.passTime])

theorem State.expireDeadline_keeps (h : Fin 32) (elapsed : Nat) (all : s.EachRecord P) :
    (s.expireDeadline h elapsed).EachRecord P := by
  have passed := State.passTime_keeps K elapsed all
  unfold State.expireDeadline
  split
  · exact State.enterFault_keeps K h _ passed
  · exact passed

theorem State.expireStage_keeps (g : Fin 8) (elapsed : Nat) (all : s.EachRecord P) :
    (s.expireStage g elapsed).EachRecord P := by
  have passed := State.passTime_keeps K elapsed all
  unfold State.expireStage
  split
  · split
    · exact State.stageEnded_keeps K g _ passed
    · exact passed
  · exact passed
  · exact passed

/-! ### The Berth Line Inputs -/

theorem State.takeHoldChange_keeps (was : Bool) (all : s.EachRecord P) : (s.takeHoldChange was).EachRecord P := by
  unfold State.takeHoldChange
  split
  · exact State.forRecords_keeps (fun s => s.EachRecord P) _ (fun h s all => s.pauseRecord_keeps K h all) _ all
  · split
    · unfold State.endHold
      refine State.forGroups_keeps (fun s => s.EachRecord P) _ (fun g s all => s.startWaiting_keeps K g all) _
        (State.forRecords_keeps (fun s => s.EachRecord P) _ (fun h s all => s.takeDeferredTrip_keeps K h all) _
          (State.forGroups_keeps (fun s => s.EachRecord P) _ (fun g s all => ?_) _
            (State.forRecords_keeps (fun s => s.EachRecord P) _ (fun h s all => s.unpauseRecord_keeps K h all) _
              (all.of_table rfl))))
      unfold State.startWaitingFirst
      split
      · split
        · exact s.startWaiting_keeps K g all
        · exact all
      · exact all
    · exact all

theorem State.takeConditionChanges_keeps (was : Conditions) (all : s.EachRecord P) :
    (s.takeConditionChanges was).EachRecord P := by
  have step1 : (if (!was.contact && s.conditions.contact) = true then s.forRecords State.contactArrives else s).EachRecord
      P := by
    split
    · exact State.forRecords_keeps (fun s => s.EachRecord P) _ (fun h s all => s.contactArrives_keeps K h all) _ all
    · exact all
  have step2 := State.takeHoldChange_keeps K was.berthHold step1
  have step3 : ∀ t : State, t.EachRecord P →
      (if (was.ramp && !s.conditions.ramp) = true then t.forGroups State.startWaiting else t).EachRecord P := by
    intro t all
    split
    · exact State.forGroups_keeps (fun s => s.EachRecord P) _ (fun g s all => s.startWaiting_keeps K g all) _ all
    · exact all
  have step4 : ∀ t : State, t.EachRecord P →
      (if (!was.emergency && s.conditions.emergency) = true then t.setEmergency else t).EachRecord P := by
    intro t all
    split
    · exact State.emergencyRelease_keeps (s := { t with emergencyLatch := true }) K all
    · exact all
  exact step4 _ (step3 _ step2)

theorem State.takeUrgent_keeps (code : UrgentCode) (all : s.EachRecord P) : (s.takeUrgent code).EachRecord P := by
  cases code
  · exact State.takeHoldChange_keeps (s := { s with softwareHold := true }) K _ all
  · exact State.takeHoldChange_keeps (s := { s with softwareHold := false }) K _ all
  · exact State.emergencyRelease_keeps (s := { s with emergencyLatch := true }) K all

/-! ### Requests -/

omit K in
theorem withReference_keeps {ref : Byte} {k : Fin 32 → Record → Taken} (all : s.EachRecord P)
    (one : ∀ h r, s.record? h = some r → P r → (k h r).1.EachRecord P) : (withReference s ref k).1.EachRecord P := by
  unfold withReference
  split
  · split
    · next r at_h => exact one _ r at_h (all _ r at_h)
    · exact all
  · exact all

omit K in
/-- What one record's action keeps whenever the request is not refused whole, the request on a target keeps. -/
theorem RecordAction.onTarget_keeps_of_whole {a : RecordAction} {whole : State → Option Result}
    (act : whole s = none → ∀ (s : State) h r, s.EachRecord P → s.record? h = some r → a.refusal s r = none →
      (a.act s h).EachRecord P)
    (kind value : Byte) (all : s.EachRecord P) : (a.onTarget whole s kind value).1.EachRecord P := by
  have members : whole s = none → ∀ l : List (Fin 32), (a.onMembers s l).1.EachRecord P := by
    intro pass l
    have act := act pass
    refine foldl_keeps (fun acc : State × Nat × Nat => acc.1.EachRecord P) _ (fun acc h all => ?_) l (s, 0, 0) all
    unfold RecordAction.weigh
    split
    · next r at_h =>
      split
      · next pass => exact act _ h r all at_h pass
      · exact all
    · exact all
  unfold RecordAction.onTarget
  split
  · exact all
  · refine withReference_keeps all fun h r at_h good => ?_
    split
    · exact all
    · next taken =>
      split
      · exact all
      · next pass => exact act taken s h r all at_h pass
  · split
    · exact all
    · next taken => exact members taken _
  · split
    · exact all
    · next taken => exact members taken _

omit K in
/-- What one record's action keeps, the request on a target keeps. -/
theorem RecordAction.onTarget_keeps {a : RecordAction} {whole : State → Option Result}
    (act : ∀ (s : State) h r, s.EachRecord P → s.record? h = some r → a.refusal s r = none → (a.act s h).EachRecord P)
    (kind value : Byte) (all : s.EachRecord P) : (a.onTarget whole s kind value).1.EachRecord P :=
  RecordAction.onTarget_keeps_of_whole (fun _ => act) kind value all

omit K in
/-- An action that rewrites its record by one function. -/
theorem modify_keeps {f : Record → Record} {h : Fin 32} {r : Record} (all : s.EachRecord P) (at_h : s.record? h = some r)
    (new : P (f r)) : (s.modifyRecord h f).EachRecord P := by
  rw [State.modifyRecord_some at_h]; exact all.put new

theorem takeArm_keeps (kind value : Byte) (all : s.EachRecord P) : (takeArm kind value s).1.EachRecord P := by
  refine RecordAction.onTarget_keeps (fun s h r all at_h pass => ?_) kind value all
  have prepared : r.state = .prepared := by
    by_contra other
    simp [armAction, armRefusal, other] at pass
  show (armRecord s h).EachRecord P
  unfold armRecord
  have armed : (s.modifyRecord h fun r => { r with state := .armed, deadline := .absent }).EachRecord P :=
    modify_keeps all at_h (K.armed r (all h r at_h) prepared)
  dsimp only
  split
  · refine State.enterPaying_keeps K h (fun r' at' => ?_) armed
    rw [State.modifyRecord_some at_h, State.record?_putRecord_self] at at'; cases at'; rfl
  · exact armed

theorem takeApply_keeps (kind value : Byte) (all : s.EachRecord P) : (takeApply kind value s).1.EachRecord P := by
  refine RecordAction.onTarget_keeps (fun s h r all at_h pass => ?_) kind value all
  show (applyRecord s h).EachRecord P
  refine all.withRecord fun r _ good => ?_
  split
  · exact all
  · next part _ =>
    dsimp only
    split
    · next state => exact all.put (K.appliedTending r part good state)
    · next state =>
      have hauling := K.applied r part good (by rw [state]; decide)
      split
      · exact all.put hauling
      · exact (all.put hauling).give _ _
    · next other _ => exact all.put (K.applied r part good other)

theorem takeRelease_keeps (kind value : Byte) (all : s.EachRecord P) : (takeRelease kind value s).1.EachRecord P := by
  unfold takeRelease
  split
  · exact all
  · refine withReference_keeps all fun h r at_h good => ?_
    split
    · exact all
    · split
      · exact all
      · exact State.enterReleasing_keeps K h all
  · unfold releaseGroup
    split
    · exact all
    · split
      · exact all
      · exact State.startStage_keeps K _ _ all
  · unfold releaseBerth
    split
    · exact all
    · have one : ∀ (acc : State × Nat) g, acc.1.EachRecord P → (releaseNextGroup acc g).1.EachRecord P := by
        intro acc g all
        unfold releaseNextGroup
        split
        · exact all
        · exact State.startStage_keeps K _ _ all
      have fold := foldl_keeps (fun acc : State × Nat => acc.1.EachRecord P) _ one (List.finRange 8) (s, 0) all
      simp only [doneCounts, doneWith]
      exact fold

theorem takeClearFault_keeps (ref : Byte) (all : s.EachRecord P) : (takeClearFault ref s).1.EachRecord P := by
  refine withReference_keeps all fun h r at_h good => ?_
  dsimp only
  split
  · exact all
  · next state =>
    have fault : r.state = .fault := by simpa using state
    split
    · exact all
    · split
      · exact all.put (K.cleared r good fault)
      · split
        · refine State.enterRewinding_keeps K h (fun r' at' => ?_) all
          rw [at_h] at at'; cases at'; exact .inr fault
        · exact all

theorem takeAbandon_keeps (ref : Byte) (all : s.EachRecord P) : (takeAbandon ref s).1.EachRecord P := by
  refine withReference_keeps all fun h r at_h good => ?_
  refine State.removeMember_keeps K _ _ (State.EachRecord.free ?_ h)
  split
  · exact all.give _ _
  · exact all

theorem takeNextNotice_keeps (all : s.EachRecord P) : (takeNextNotice s).1.EachRecord P := by
  have found : ∀ {test : Record → Bool} {h r}, s.lowestWith test = some (h, r) → P r := by
    intro test h r e
    obtain ⟨h', _, e⟩ := List.exists_of_findSome?_eq_some e
    rw [Option.map_eq_some_iff] at e
    obtain ⟨r', mem, e⟩ := e
    rw [Option.filter_eq_some_iff] at mem
    cases e
    exact all _ _ mem.1
  unfold takeNextNotice
  split
  · next e => exact all.put (K.notices _ _ (found e))
  · split
    · next e =>
      split at e
      · exact all.put (K.notices _ _ (found e))
      · cases e
    · exact all

theorem takeConfigureBerth_keeps (body : BerthBody) (all : s.EachRecord P) :
    (takeConfigureBerth body s).1.EachRecord P := by
  unfold takeConfigureBerth
  split
  · exact all
  · refine State.takeConditionChanges_keeps K _ ?_
    have stations : ∀ (s : State) old, s.EachRecord P → (s.removeStations old).EachRecord P := fun s old all =>
      foldl_keeps (fun s : State => s.EachRecord P) _ (fun s st all => by
        split
        · exact all.entry _ _
        · exact all) _ s all
    have lines : ∀ (s : State) old, s.EachRecord P → (s.reconfigureLines old).EachRecord P := fun s old all =>
      foldl_keeps (fun s : State => s.EachRecord P) _ (fun s l all => all.line l _) (List.finRange 8) s all
    have changed := lines _ s.config.lines (stations { s with config := body.config, configured := true } s.config.map
      all)
    have scanned : ∀ t : State, t.EachRecord P →
        (if s.configured = true then t else { t with scan := { station := 0, slot := none } }).EachRecord P := by
      intro t all
      split
      · exact all
      · exact all
    exact scanned _ changed

/-- A request keeps what every rewriting of a record keeps. -/
theorem runRequest_keeps (code : RequestCode) (body : List Byte) (all : s.EachRecord P) :
    (runRequest code body s).1.EachRecord P := by
  cases code
  case configureBerth => exact takeConfigureBerth_keeps K _ all
  case assign =>
    show (takeAssign _ s).1.EachRecord P
    unfold takeAssign
    split
    · exact all
    · next place e =>
      split
      · exact all
      · split
        · exact all
        · exact all.put (K.created _ place e)
  case arm => exact takeArm_keeps K _ _ all
  case disarm =>
    refine RecordAction.onTarget_keeps (fun s h r all at_h pass => ?_) _ _ all
    have state : r.state = .armed := by
      by_contra other; simp [disarmAction, unlessState, other] at pass
    exact modify_keeps all at_h (K.disarmed r (all h r at_h) state)
  case set =>
    refine RecordAction.onTarget_keeps_of_whole (fun inRange => ?_) _ _ all
    have bounds : ∀ p b : Half, (if 8191 < p.toNat || 8191 < b.toNat then some Result.range else none) = none →
        p.toNat ≤ 8191 ∧ b.toNat ≤ 8191 := by
      intro p b pass; simp at pass; omega
    exact fun s h r all at_h _ => modify_keeps all at_h
      (K.pendingSet r _ (all h r at_h) (bounds _ _ inRange).1 (bounds _ _ inRange).2)
  case apply => exact takeApply_keeps K _ _ all
  case holdLine =>
    refine RecordAction.onTarget_keeps (fun s h r all at_h pass => ?_) _ _ all
    have state : r.state = .tending := by
      by_contra other; simp [holdLineAction, unlessState, other] at pass
    exact modify_keeps all at_h (K.heldByRequest r (all h r at_h) state)
  case resume =>
    refine RecordAction.onTarget_keeps (fun s h r all at_h pass => ?_) _ _ all
    have state : r.state = .held := by
      by_contra other; simp [resumeAction, other] at pass
    exact modify_keeps all at_h (K.resumed r (all h r at_h) state)
  case release => exact takeRelease_keeps K _ _ all
  case clearFault => exact takeClearFault_keeps K _ all
  case retire =>
    show (takeRetire _ _ s).1.EachRecord P
    unfold takeRetire
    split
    · exact all
    · exact RecordAction.onTarget_keeps (fun s h r all _ _ => all.free h) _ _ all
  case abandon => exact takeAbandon_keeps K _ all
  case readRecord =>
    exact withReference_keeps (k := fun h r => doneWith s (r.snapshot (s.refOf h))) all fun _ _ _ _ => all
  case find =>
    have reply : ∀ kind value test, (findReply s kind value test).1.EachRecord P := fun _ _ _ => all
    have refused : ∀ result, (refuse s result).1.EachRecord P := fun _ => all
    show (takeFind _ _ s).1.EachRecord P
    unfold takeFind
    split
    · split
      · exact reply _ _ _
      · exact refused _
    · exact reply _ _ _
    · split
      · exact reply _ _ _
      · exact refused _
    · exact refused _
  case nextNotice => exact takeNextNotice_keeps K all
  case ackEmergency =>
    show (takeAckEmergency s).1.EachRecord P
    unfold takeAckEmergency
    split
    · exact all
    · exact all
  case stationQuery =>
    show (takeStationQuery _ _ s).1.EachRecord P
    unfold takeStationQuery
    repeat' split
    all_goals exact all
  case zero =>
    show (takeZero _ s).1.EachRecord P
    unfold takeZero
    split
    · exact all
    · dsimp only
      repeat' split
      all_goals first
        | exact all
        | exact State.EachRecord.give (all.entry _ _) _ _
  case proveStart =>
    refine withReference_keeps all fun h r at_h good => ?_
    split
    · split
      · exact all
      · next state =>
        split
        · exact all
        · exact all.put (K.proveStarted r _ _ _ _ _ good (by simpa using state))
    · exact all
  case proveRelease =>
    refine withReference_keeps all fun h r at_h good => ?_
    split
    · next p e =>
      split
      · exact all.put (K.proveReleased r p good e)
      · exact all
    · exact all
  case proveStop =>
    refine withReference_keeps all fun h r at_h good => ?_
    split
    · exact all.put (K.proveStopped r good)
    · exact all
  case readBerth => exact all
  case setOutputs =>
    exact foldl_keeps (fun s : State => s.EachRecord P) _ (fun s l all => all.line l _) (List.finRange 8) s all

theorem State.writeByte_keeps (b : Byte) (all : s.EachRecord P) : (s.writeByte b).EachRecord P := by
  have taken : ∀ (s : State) code body, s.EachRecord P → (s.takeRequest code body).EachRecord P := by
    intro s code body all
    show (answerRequest code body s).1.EachRecord P
    unfold answerRequest
    split
    · exact runRequest_keeps K _ _ all
    · exact all
  unfold State.writeByte
  split
  · have opened : ({ s with port := s.port.openForByte } : State).EachRecord P := all
    unfold State.fillMailbox
    split
    · split
      · exact opened
      · split
        · exact taken _ _ _ opened
        · exact opened
    · exact opened
  · exact all

theorem State.sendMessage_keeps (code : Byte) (body : List Byte) (all : s.EachRecord P) :
    (s.sendMessage code body).EachRecord P :=
  foldl_keeps (fun s : State => s.EachRecord P) _ (fun s b all => s.writeByte_keeps K b all) _ s all

theorem State.writeUrgent_keeps (value : Byte) (all : s.EachRecord P) : (s.writeUrgent value).EachRecord P := by
  have posted : ∀ (s : State) code, s.EachRecord P → (s.postUrgent code).EachRecord P := by
    intro s code all
    unfold State.postUrgent
    dsimp only
    split
    · exact State.takeUrgent_keeps K code all
    · exact all
  unfold State.writeUrgent
  split
  · exact all
  · exact posted _ _ all
  · exact posted _ _ all
  · exact posted _ _ all
  · exact all

theorem State.endRequest_keeps (all : s.EachRecord P) : s.endRequest.EachRecord P := by
  unfold State.endRequest
  split
  · have replied : ({ s with port := s.port.replied } : State).EachRecord P := all
    unfold State.takePosted
    split
    · exact State.takeUrgent_keeps K _ replied
    · exact replied
  · exact all

/-- A predicate that every rewriting of a record keeps is kept, of every record of the table, by every command. -/
theorem exec_keeps_records (c : Instr) {t : State} (next : exec c s = .next t) (all : s.EachRecord P) :
    t.EachRecord P := by
  have sent : ∀ code body, (s.sendMessage code body).EachRecord P := fun code body => State.sendMessage_keeps K code body all
  cases c
  case requestByteWrite b => cases next; exact State.writeByte_keeps K b all
  case requestEnd => cases next; exact State.endRequest_keeps K all
  case replyByteRead => cases next; exact all
  case statusRead => cases next; exact all
  case portAbort v =>
    cases next
    unfold State.writeControl
    split
    · exact all
    · exact all
  case enablesWrite => cases next; exact all
  case holdAll => cases next; exact State.writeUrgent_keeps K _ all
  case resumeAll => cases next; exact State.writeUrgent_keeps K _ all
  case releaseAll => cases next; exact State.writeUrgent_keeps K _ all
  case urgentWithdrawal => cases next; exact State.writeUrgent_keeps K _ all
  case urgentCodeInvalid => cases next; exact State.writeUrgent_keeps K _ all
  case powerOnReset =>
    cases next
    intro h r at_h
    simp [State.record?, State.powerOnReset, State.reset] at at_h
  case warmReset =>
    have e : t = s.warmReset := (Host.Outcome.next.inj next).symm
    rw [e]
    exact State.mapRecords_keeps (f := Record.afterWarmReset) K.warmReset all (by simp only [State.warmReset])
  case slotStart => cases next; exact State.beginSlot_keeps all
  case slotEnd => cases next; exact State.endSlot_keeps K _ _ all
  case deadlineExpiry => cases next; exact State.expireDeadline_keeps K _ _ all
  case stageDeadlineExpiry => cases next; exact State.expireStage_keeps K _ _ all
  case lineQualified =>
    cases next
    unfold State.qualify
    split
    · exact State.takeConditionChanges_keeps K _ all
    · exact all
  case berthLinePinChange =>
    cases next
    unfold State.changePin
    split
    · exact all
    · exact all
  all_goals (cases next; exact sent _ _)

/-- The same for a step, with or without a command waiting. -/
theorem step_keeps_records {t : State} (next : step s = .next t) (all : s.EachRecord P) : t.EachRecord P := by
  unfold step at next
  split at next
  · have e : t = s.tick := (Host.Outcome.next.inj next).symm
    rw [e]
    exact State.passTime_keeps K 1 all
  · exact exec_keeps_records K _ next all

end

end Sys2Proof.Machine
end

