-- ==== Sys2Proof/Tests/Slice0.lean ====
section
/-! SUPPORT. Tests on fixed values, and for every statement that has hypotheses a state and operands that meet them.
Expected values are the manual's: its worked examples where a test names one, its tables and layouts otherwise. -/

namespace Sys2Proof.Tests

open Sys2Proof.Machine

set_option Elab.async false

/-! ### Small states -/

/-- The record of the worked example of section 4.14 (station 11), in a given state. -/
def line (state : LineState) : Record where
  station := 11
  callTag := 61
  group := 0
  role := .breast
  state := state
  lRun := 5000
  lMin := 2000
  lMax := 6000
  len := 3140
  p := 1200
  b := 40
  q := 2000
  k := 600
  m := 1200
  c := 0
  lean := none
  t := 24
  r := 8
  stepSize := 25
  tripDeferred := false
  slackRun := 0
  overload := false
  payLimit := false
  haulLimit := false
  stepsPaid := 0
  stepsHauled := 0
  deadline := .absent
  pending := none
  step := none
  proving := none
  faultCause := none
  notices := .empty

/-- A configured berth with every station mapped and PRESENT, no line assigned a function, and an empty line table. -/
def berth : State :=
  { State.reset with
    configured := true
    config := { BerthConfig.default with map := 0xffffff }
    stations := Vector.replicate 24 { StationEntry.reset with presence := .present } }

/-- The berth with one record, in slot 3 at generation 1 (3/1, reference byte 35). -/
def at3 (r : Record) : State := { berth with table := berth.table.set 3 { generation := 1, record := some r } }

/-- The berth with a second record, in slot 4 at generation 0. -/
def both (r r' : Record) : State :=
  { at3 r with table := (at3 r).table.set 4 { generation := 0, record := some r' } }

/-- The state a command leaves. -/
def run (c : Instr) (s : State) : State :=
  match exec c s with
  | .next t => t
  | .fault _ => s
  | .refused _ => s

/-- The answer of the executing request. -/
def answerOf (s : State) : Option Answer := s.port.executing.map (·.answer)

/-- Station 11's slot in progress. -/
def inSlot (kind : SlotKind) (s : State) : State :=
  { s with scan := { station := 11, slot := some { kind := kind, sent := [], replaced := false } } }

/-- Station 11's entry rewritten. -/
def entry11 (f : StationEntry → StationEntry) (s : State) : State := s.putEntry 11 (f (s.entry 11))

/-- The characters of a reply frame (section 7.4). -/
def frame (flags : Byte) (m l : Nat) : List LinkChar :=
  let bytes := flags :: (halfOf m ++ halfOf l)
  (bytes ++ [checkSum bytes]).map (linkChar false)

/-- The characters of a diagnostic frame (section 7.4). -/
def diagnostic (kind : Byte) (v : Nat) : List LinkChar :=
  let bytes := kind :: halfOf v
  (bytes ++ [checkSum bytes]).map (linkChar false)

/-- A function assigned to line D0, active high, at a qualified level, with a level on the pin. -/
def withLine (f : LineFunction) (level : Option Level) (s : State) (pin : Level := .high) : State :=
  { s with
    config := { s.config with lines := s.config.lines.set 0 { function := f, activeLow := false } }
    lines := s.lines.set 0 { latch := false, qualified := level, pin := pin, qualifying := true } }

/-! ### Well-formedness -/

theorem test_wellFormed_refuses_a_body_of_31 : (Instr.badRequestHeader 0 (List.replicate 31 0)).wellFormed = false := by decide
theorem test_wellFormed_refuses_a_good_header : (Instr.badRequestHeader 15 []).wellFormed = false := by decide
theorem test_wellFormed_refuses_a_control_write_without_bit_0 : (Instr.portAbort 0xfe).wellFormed = false := by decide
theorem test_wellFormed_refuses_urgent_code_3 : (Instr.urgentCodeInvalid 3).wellFormed = false := by decide
theorem test_wellFormed_refuses_a_start_bit_of_1 : (Instr.slotEnd true [1]).wellFormed = false := by decide
theorem test_wellFormed_refuses_84_characters :
    (Instr.slotEnd true (List.replicate 84 0)).wellFormed = false := by decide

/-! ### One test or two for each command -/

/-- Six timeouts of 100, every station mapped, D0 as EMERGENCY active low. -/
def body1 : BerthBody where
  pay := 100
  fast := 100
  haul := 100
  clear := 100
  stall := 100
  stage := 6000
  map := 0xffffff
  lines := #v[0x85, 0, 0, 0, 0, 0, 0, 0]

theorem test_configureBerth : (run (.configureBerth body1) State.reset).configured = true ∧
    (run (.configureBerth body1) State.reset).config.timeouts.stage = 6000 ∧
    (run (.configureBerth body1) State.reset).config.map = 0xffffff := by decide +kernel

/-- Section 5.9. -/
def assign9 : AssignBody where
  station := 11
  callTag := 61
  group := 7
  role := 3
  lRun := 9000
  lMin := 1000
  lMax := 8000
  p := 7200
  b := 2000
  q := 7300
  k := 6800
  t := 1
  r := 5
  s := 250

theorem test_assign_clamps_as_section_5_9 :
    ((run (.assign assign9) berth).record? 0).map (fun r => [r.p, r.b, r.q, r.k, r.t, r.r, r.stepSize, r.lRun]) =
      some [7000, 500, 7501, 6499, 2, 1, 200, 8000] ∧
    answerOf (run (.assign assign9) berth) = some { result := .done, body := [0] } := by decide +kernel

theorem test_arm_under_contact_pays :
    ((run (.arm 0 35) (at3 (line .prepared))).record? 3).map (·.state) = some .paying ∧
    ((run (.arm 0 35) (at3 (line .prepared))).entry 11).command = some (.payTo 5000) := by decide +kernel

theorem test_arm_without_contact_waits :
    ((run (.arm 0 35) (withLine .contact (some .low) (at3 (line .prepared)))).record? 3).map (·.state) = some .armed := by
  decide +kernel

theorem test_disarm : ((run (.disarm 0 35) (at3 (line .armed))).record? 3).map (·.state) = some .prepared := by
  decide +kernel

theorem test_set_keeps_values_unclamped :
    ((run (.set 0 35 8191 0) (at3 (line .tending))).record? 3).map (·.pending) = some (some { p := 8191, b := 0 }) := by
  decide +kernel

/-- The four rows of section 5.10. -/
theorem test_apply_clamps_as_section_5_10 :
    [(1900, 80), (1990, 80), (500, 100), (1400, 0)].map (fun v =>
      ((run (.apply 0 35) (at3 { line .tending with pending := some { p := v.1, b := v.2 } })).record? 3).map
        fun r => (r.p, r.b)) = [some (1900, 80), some (1990, 9), some (602, 1), some (1400, 1)] := by decide +kernel

theorem test_holdLine : ((run (.holdLine 1 0) (at3 (line .tending))).record? 3).map (·.state) = some .held := by
  decide +kernel

/-- RESUME goes by the last reply's EYE FAST, bit 3 (R41). -/
theorem test_resume_needs_eye_fast :
    answerOf (run (.resume 0 35) (at3 (line .held))) = some { result := .badState, body := [] } ∧
    ((run (.resume 0 35) (entry11 (fun e => { e with lastReply := some ⟨8, 1200, 3140⟩ }) (at3 (line .held)))).record?
      3).map (·.state) = some .tending := by decide +kernel

theorem test_release_gives_free :
    ((run (.release 0 35) (at3 (line .tending))).record? 3).map (fun r => (r.state, r.deadline)) =
      some (.releasing, .running 300) ∧
    ((run (.release 0 35) (at3 (line .tending))).entry 11).command = some .free := by decide +kernel

theorem test_release_of_the_group_starts_breast :
    (run (.release 1 0) (at3 (line .tending))).groupEntry 0 = .running .breast [⟨3, 1⟩] 450 := by decide +kernel

/-- CLEAR FAULT with EYE CLEAR, bit 4 (R46). -/
theorem test_clearFault_rewinds :
    ((run (.clearFault 35) (entry11 (fun e => { e with lastReply := some ⟨16, 0, 100⟩ })
      (at3 { line .fault with faultCause := some .clearTimeout }))).record? 3).map (fun r => (r.state, r.faultCause)) =
      some (.rewinding, none) := by decide +kernel

theorem test_retire_raises_the_generation :
    (run (.retire 0 35) (at3 (line .stowed))).record? 3 = none ∧
    (run (.retire 0 35) (at3 (line .stowed))).generation 3 = 2 := by decide +kernel

theorem test_abandon_brakes_the_station :
    (run (.abandon 35) (at3 (line .tending))).record? 3 = none ∧
    ((run (.abandon 35) (at3 (line .tending))).entry 11).command = some .stopBrake := by decide +kernel

theorem test_readRecord_bytes_0_to_7 :
    (answerOf (run (.readRecord 35) (at3 (line .tending)))).map (fun a => (a.body.take 8, a.body.length)) =
      some ([35, 11, 61, 0, 0, 6, 0x88, 0x13], 57) := by decide +kernel

theorem test_find_by_call_tag :
    (answerOf (run (.find 1 61) (at3 (line .tending)))).map (·.body) = some [1, 61, 1, 35] := by decide +kernel

theorem test_nextNotice_reports_an_alert :
    (answerOf (run .nextNotice (at3 { line .tending with notices := { NoticeSet.empty with overload := true } }))).map
      (·.body) = some [1, 35, 1, 6, 0xb0, 0x04, 0] := by decide +kernel

theorem test_ackEmergency : (run .ackEmergency { berth with emergencyLatch := true }).emergencyLatch = false := by
  decide +kernel

/-- Section 7.14: station 7 holds running hours 11 482 and is asked for the brake wear. -/
theorem test_stationQuery_as_section_7_14 :
    let s := berth.putEntry 7 { berth.entry 7 with
      diagState := .filled, diagKind := some .runningHours, diagValue := 11482 }
    ((answerOf (run (.stationQuery 7 2) s)).map fun a => a.body.drop 8) = some [0x12, 0xda, 0x2c, 2] ∧
    ((run (.stationQuery 7 2) s).entry 7).pendingKind = some .brakeWear := by decide +kernel

theorem test_zero : ((run (.zero 11) berth).entry 11).command = some .zero ∧
    ((run (.zero 11) berth).entry 11).zeroing = true := by decide +kernel

theorem test_proveStart_clamps :
    (((run (.proveStart 35 0 0xffff 0 1 0) (at3 (line .tending))).record? 3).bind (·.proving)).map
      (fun p => (p.pushCount, p.settleCount, p.increment, p.raises, p.phase)) = some (1, 1000, 1, false, .push) := by
  decide +kernel

/-- A proving part of the settings of section 9.10. -/
def part (phase : ProvePhase) (counter : Nat) (offset : Int) : ProvingPart where
  pushCount := 3
  settleCount := 8
  increment := 40
  raises := true
  dwells := false
  phase := phase
  counter := counter
  offset := offset
  lastSteps := 0
  lastInBand := none

theorem test_proveRelease :
    (((run (.proveRelease 35) (at3 { line .tending with proving := some (part .dwell 9 120) })).record? 3).bind
      (·.proving)).map (fun p => (p.phase, p.counter, p.offset)) = some (.settle 0 none, 0, 0) := by decide +kernel

theorem test_proveStop :
    ((run (.proveStop 35) (at3 { line .tending with proving := some (part .push 1 40) })).record? 3).map (·.proving) =
      some none := by decide +kernel

theorem test_readBerth_groups_and_flags :
    (answerOf (run .readBerth (berth.putGroup 7 (.waiting .ends)))).map (fun a => (a.body.drop 8).take 2 ++ a.body.drop 38) =
      some [0x81, 1, 130, 0, 0, 0] := by decide +kernel

theorem test_setOutputs_drives_a_general_out :
    (run (.setOutputs 1) (withLine .generalOut none berth)).driven 0 = some .high ∧
    (run (.setOutputs 0xfe) (withLine .generalOut none berth)).driven 0 = some .low := by decide +kernel

theorem test_badRequestHeader :
    answerOf (run (.badRequestHeader 24 [1]) berth) = some { result := .badRequest, body := [] } := by decide +kernel

theorem test_requestByteWrite_refuses_a_length_of_31 :
    (run (.requestByteWrite 31) (run (.requestByteWrite 22) berth)).port.reply = .ready [22, 1, 0] 0 := by decide +kernel

theorem test_requestEnd_makes_the_reply :
    (run .requestEnd (run .ackEmergency berth)).port.reply = .ready [16, 0, 0] 0 := by decide +kernel

theorem test_replyByteRead_past_the_end_overruns :
    let s := run .replyByteRead (run .replyByteRead (run .replyByteRead (run .requestEnd (run .ackEmergency berth))));
    s.port.reply = .readOut ∧ (run .replyByteRead s).port.overrun = true := by decide +kernel

theorem test_statusRead : (run .statusRead { berth with emergencyLatch := true }).port.dataOut = 0x83 := by decide +kernel

theorem test_portAbort_opens_the_mailbox :
    (run (.portAbort 1) (run .requestEnd (run .ackEmergency berth))).port.requestOpen = true := by decide +kernel

theorem test_enablesWrite : (run (.enablesWrite 2) berth).noticesEnable = true ∧
    (run (.enablesWrite 2) berth).port.replyReadyEnable = false := by decide +kernel

theorem test_holdAll_pauses :
    let s := run .holdAll (at3 { line .hauling with deadline := .running 77 });
    (s.record? 3).map (·.deadline) = some (.frozen 77) ∧ (s.entry 11).command = some .stopBrake := by decide +kernel

theorem test_resumeAll_runs_on :
    let s := run .resumeAll { at3 { line .hauling with deadline := .frozen 77 } with softwareHold := true };
    (s.record? 3).map (·.deadline) = some (.running 77) ∧ (s.entry 11).command = some (.haulUntil 1160) := by
  decide +kernel

/-- Section 4.16: at the end of the hold the deferred trip is taken. -/
theorem test_resumeAll_takes_a_deferred_trip_as_section_4_16 :
    let s := run .resumeAll { at3 { line .tending with c := 24, lean := some .pay, tripDeferred := true, len := 3200 } with
      softwareHold := true }
    (s.record? 3).map (fun r => (r.c, r.tripDeferred, r.step)) = some (8, false, some { dir := .pay, amount := 25 }) ∧
    (s.entry 11).command = some (.stepPay 25) := by decide +kernel

theorem test_releaseAll : (run .releaseAll (at3 (line .tending))).emergencyLatch = true ∧
    ((run .releaseAll (at3 (line .tending))).record? 3).map (·.state) = some .releasing := by decide +kernel

theorem test_urgentWithdrawal :
    (run .urgentWithdrawal (run .holdAll (run .readBerth berth))).port.posted = none ∧
    (run .holdAll (run .readBerth berth)).port.posted = some .holdAll := by decide +kernel

theorem test_urgentCodeInvalid : (run (.urgentCodeInvalid 4) berth).port.posted = none := by decide +kernel

theorem test_powerOnReset : (run .powerOnReset (at3 (line .tending))).record? 3 = none ∧
    (run .powerOnReset (at3 (line .tending))).generation 3 = 0 := by decide +kernel

theorem test_warmReset :
    ((run .warmReset (at3 (line .tending))).record? 3).map (fun r => (r.state, r.notices.resetHold)) = some (.held, true) ∧
    ((run .warmReset (at3 (line .releasing))).record? 3).map (fun r => (r.state, r.faultCause)) =
      some (.fault, some .reset) := by decide +kernel

/-- A STEP PAY 25 with toggle 1 for station 11 (section 7.4): address 010 01011, command 1000 0100, argument 25. -/
theorem test_slotStart_sends_a_step :
    let s := run .slotStart (entry11 (fun e => { e with command := some (.stepPay 25), toggle := true })
      { berth with scan := { station := 11, slot := none } })
    (s.scan.slot.map fun slot => slot.sent.map LinkChar.data) = some [0x4b, 0x84, 25] := by decide +kernel

/-- Section 4.14, sample 7: the trip. -/
theorem test_slotEnd_trips_as_section_4_14 :
    let s := run (.slotEnd true (frame 8 1498 3140)) (inSlot .poll (at3 { line .tending with c := 23, lean := some .pay }));
    (s.record? 3).map (fun r => (r.c, r.step, r.m)) = some (8, some { dir := .pay, amount := 25 }, 1498) ∧
    (s.entry 11).command = some (.stepPay 25) := by decide +kernel

/-- Section 7.13, scan n + 2: the reply delivers the step, and the toggle becomes 0. -/
theorem test_slotEnd_delivers_as_section_7_13 :
    let s := run (.slotEnd true (frame 0x8a 1460 3142)) (inSlot (.command (.stepPay 25) true)
      (entry11 (fun e => { e with command := some (.stepPay 25), toggle := true, missCount := 1 })
        (at3 { line .tending with c := 8, lean := some .pay, step := some { dir := .pay, amount := 25 } })))
    ((s.entry 11).command, (s.entry 11).toggle, (s.entry 11).missCount) = (none, false, 0) ∧
    (s.record? 3).map (fun r => (r.c, r.step)) = some (8, some { dir := .pay, amount := 25 }) := by decide +kernel

theorem test_deadlineExpiry :
    ((run (.deadlineExpiry ⟨3, 1⟩) (at3 { line .makingFast with deadline := .running 1 })).record? 3).map
      (fun r => (r.state, r.faultCause)) = some (.fault, some .fastTimeout) := by decide +kernel

/-- An expiry taken after the eye-fast reply finds the haul time of the new state (R30). -/
theorem test_deadlineExpiry_late :
    ((run (.deadlineExpiry ⟨3, 1⟩) (run (.slotEnd true (frame 8 0 3100)) (inSlot .poll
      (at3 { line .makingFast with deadline := .running 1 })))).record? 3).map
      (fun r => (r.state, r.deadline, r.faultCause)) = some (.hauling, .running 599, none) := by
  decide +kernel

theorem test_stageDeadlineExpiry_waits_under_hold :
    (run (.stageDeadlineExpiry ⟨0, 1⟩) { (at3 { line .releasing with deadline := .running 9 }).putGroup 0
      (.running .breast [⟨3, 1⟩] 1) with softwareHold := true }).groupEntry 0 = .waiting .breast := by decide +kernel

theorem test_lineQualified_emergency :
    (run (.lineQualified 0) (withLine .emergency (some .low) (at3 (line .tending)))).emergencyLatch = true := by
  decide +kernel

theorem test_berthLinePinChange :
    ((run (.berthLinePinChange 7 .high) State.reset).line 7).pin = .high ∧
    ((run (.berthLinePinChange 7 .high) State.reset).line 7).qualified = none := by decide +kernel

/-- The same command word is spelled by no bits of the table, so the decoder answers none. -/
theorem test_decodeTableWord : decodeTableWord 8 15 = none := by decide

/-! ### Witnesses: for each statement with hypotheses, states and operands that meet them, clause by clause -/

/-- `3/1` names the record of `at3`, and the port waits. -/
abbrev Given (s : State) (r : Record) : Prop :=
  s.names (Ref.ofByte 35) = true ∧ s.record? (Ref.ofByte 35).handle = some r

theorem awaits_berth : berth.port.Awaits := ⟨rfl, rfl, rfl⟩

theorem awaits_at3 (r : Record) : (at3 r).port.Awaits := ⟨rfl, rfl, rfl⟩

theorem given_at3 (r : Record) : Given (at3 r) r := ⟨rfl, rfl⟩

/-- The one record of `at3`. -/
theorem only_at3 {r r' : Record} {h : Fin 32} (e : (at3 r).record? h = some r') : h = 3 ∧ r' = r := by
  have all : (at3 r).record? h = if h = 3 then some r else none := by
    fin_cases h <;> rfl
  rw [all] at e
  split at e
  · exact ⟨by assumption, (Option.some.inj e).symm⟩
  · cases e

theorem each_at3 {P : Record → Prop} {r : Record} (ok : P r) : (at3 r).EachRecord P :=
  fun _ _ e => (only_at3 e).2 ▸ ok

theorem shared_at3 (r : Record) : (at3 r).StationsShared where
  engaged _ _ _ _ e e' _ _ _ := (only_at3 e).1.trans (only_at3 e').1.symm
  callTag _ _ _ _ e e' _ _ := (only_at3 e).1.trans (only_at3 e').1.symm
  atMostTwo st := by
    unfold State.recordsOn State.handlesWith
    refine Nat.le_trans (m := ([3] : List (Fin 32)).length) ?_ (by decide)
    · refine List.Subperm.length_le (List.subperm_of_subset ((List.nodup_finRange 32).filter _) fun h mem => ?_)
      have held := (List.mem_filter.mp mem).2
      simp only [State.holds, Option.any_eq_true] at held
      obtain ⟨r', e, -⟩ := held
      simp [(only_at3 e).1]

theorem idle_berth : ∀ g, berth.groupEntry g = .idle := by decide +kernel

theorem noneWaits_berth : berth.NoneWaits := fun g _ => by rw [idle_berth]; exact nofun

theorem entry_at3 (r : Record) (st : Fin 24) : (at3 r).entry st = { StationEntry.reset with presence := .present } := by
  fin_cases st <;> rfl

theorem mapped_berth : ∀ st, berth.mapped st = true := by decide +kernel

theorem mapped_at3 (r : Record) (st : Fin 24) : (at3 r).mapped st = true := mapped_berth st

theorem shared_of {s : State} (r : Record) (table : s.table = (at3 r).table) : s.StationsShared := by
  cases s
  cases table
  exact ⟨(shared_at3 r).engaged, (shared_at3 r).callTag, (shared_at3 r).atMostTwo⟩

theorem linkOk_of {s : State} (r : Record) (flag : s.configured = true) (config : s.config = berth.config)
    (stations : s.stations = berth.stations) : s.LinkOk := by
  have mapped (st) : s.mapped st = true := by
    unfold State.mapped
    rw [config]
    exact mapped_berth st
  have entry (st) : s.entry st = { StationEntry.reset with presence := .present } := by
    unfold State.entry
    rw [stations]
    exact entry_at3 r st
  refine ⟨fun st => ?_, fun _ r' _ _ => ⟨flag, mapped r'.station⟩, fun st no => ?_, fun no => ?_, fun st waits => ?_,
    fun st zeroing => ?_⟩
  · rw [entry]
    exact ⟨nofun, fun _ => by decide, nofun⟩
  · rw [mapped] at no
    cases no
  · rw [flag] at no
    cases no
  · rw [entry] at waits
    cases waits
  · rw [entry] at zeroing
    cases zeroing

theorem tensionOk_line (state : LineState) : (line state).TensionOk :=
  by
  constructor <;> simp [line]

/-- A port in a given condition, on the berth. -/
def ported (f : Port → Port) : State := { berth with port := f berth.port }

/-- A request executing, with an answer of DONE. -/
def busy (aborted : Bool) : Option Executing := some { code := 16, answer := { result := .done, body := [] }, aborted := aborted }

theorem witness_IdleStepPassesTime : (at3 { line .paying with deadline := .running 2 }).pending = [] := rfl

theorem witness_RequestRowIsItsBytes :
    (Instr.set 0 35 8191 0).message = some (5, [0, 35, 0xff, 0x1f, 0, 0]) ∧ (Instr.set 0 35 8191 0).wellFormed = true ∧
      berth.port.Awaits ∧ ∃ t, writeBytes ((messageBytes 5 [0, 35, 0xff, 0x1f, 0, 0]).take 7) berth = .next t :=
  ⟨rfl, rfl, awaits_berth, _, rfl⟩

theorem witness_RequestMailboxTakesItsBytes :
    (ported fun p => { p with executing := busy false }).port.executing ≠ none ∧
    (ported fun p => { p with reply := .ready [1] 0 }).port.replyReady = true ∧
    ((ported fun p => { p with reply := .readOut }).port.executing = none ∧
      (ported fun p => { p with reply := .readOut }).port.replyReady = false) ∧
    (30 < (31 : Byte).toNat ∧ 1 ≤ (1 : Byte).toNat ∧ 1 ≤ (30 : Byte).toNat ∧ (30 : Byte).toNat ≤ 30) ∧
    ([1, 30] : List Byte) = 1 :: 30 :: [] ∧ ([] : List Byte).length + 1 < (30 : Byte).toNat ∧
    headerRequest 1 0 = none ∧ (([] : List Byte).length + 1 = (1 : Byte).toNat ∧ headerRequest 24 1 = none) := by
  decide +kernel

theorem witness_RequestMailboxTakesItsBytes_whole :
    berth.port.Awaits ∧ (List.replicate 30 (0 : Byte)).length ≤ 30 ∧
      (∀ c : RequestCode, c.byte = 1 → c.bodyLength ≠ (List.replicate 30 (0 : Byte)).length) ∧
      ∀ c : RequestCode, c.byte = 0 → c.bodyLength ≠ ([] : List Byte).length :=
  ⟨awaits_berth, by decide, fun c => by cases c <;> decide, fun c => by cases c <;> decide⟩

theorem witness_RepliesAreMadeAndReadOnce :
    berth.port.executing = none ∧
    ((ported fun p => { p with executing := busy false }).port.executing = busy false ∧
      (ported fun p => { p with executing := busy false }).port.posted = none) ∧
    (ported fun p => { p with executing := busy true }).port.executing = busy true ∧
    (ported fun p => { p with executing := busy false, posted := some .holdAll }).port.posted = some .holdAll ∧
    berth.port.reply = .empty ∧ (ported fun p => { p with reply := .readOut }).port.reply = .readOut ∧
    (ported fun p => { p with reply := .ready [1, 0, 0] 2 }).port.reply = .ready [1, 0, 0] 2 ∧
    (0 < [1, 0, 0].length ∧ 2 < [1, 0, 0].length) := by decide +kernel

theorem witness_StatusByteShowsEightConditions :
    (ported fun p => { p with executing := busy false }).port.requestOpen = false ∧ berth.port.requestOpen = true ∧
    (ported fun p => { p with reply := .readOut }).port.reply = .readOut ∧ berth.port.reply ≠ .readOut := by decide +kernel

theorem witness_StateOutputsAndAttention :
    { berth with emergencyLatch := true }.emergencyLatch = true ∧
    (berth.emergencyLatch = false ∧ { berth with softwareHold := true }.berthHold = true) ∧
    (berth.berthHold = false ∧ berth.configured = true) ∧
    (State.reset.emergencyLatch = false ∧ State.reset.berthHold = false ∧ State.reset.configured = false) ∧
    (1 : Byte).getLsbD 0 = true := by decide +kernel

theorem witness_StateOutputsAndAttention_waits : berth.port.Awaits := awaits_berth

theorem witness_ControlEnableAndUrgentWrites :
    (0xff : Byte).getLsbD 0 = true ∧ (0xfe : Byte).getLsbD 0 = false ∧
    (ported fun p => { p with executing := busy false }).port.executing ≠ none ∧
    (4 ≤ (4 : Byte).toNat ∧ 4 ≤ (255 : Byte).toNat) ∧ berth.port.posted = none ∧
    ∀ code : Fin 3, (ported fun p => { p with posted := [.holdAll, .resumeAll, .releaseAll][code]? }).port.posted ≠ none := by
  decide +kernel

theorem witness_HoldAllAndResumeAll :
    (berth.port.executing = none ∧ berth.berthHold = false) ∧ { berth with softwareHold := true }.berthHold = true ∧
    { berth with softwareHold := true }.condition .hold = false ∧
    (withLine .hold (some .high) berth).condition .hold = true := by decide +kernel

theorem witness_HoldAllAndResumeAll_ends :
    let s := { at3 { line .hauling with deadline := .frozen 77 } with softwareHold := true };
    s.port.executing = none ∧ s.berthHold = true ∧ s.condition .hold = false ∧ s.StationsShared ∧ s.NoneWaits :=
  ⟨rfl, by decide +kernel, by decide +kernel,
    shared_of _ rfl, noneWaits_berth⟩

/-- A group waiting, with a line of the next stage in TENDING. -/
def waiting : State :=
  { (at3 { line .tending with role := .head }).putGroup 0 (.waiting .breast) with softwareHold := true }

/-- What the qualification of D0 makes of a state. -/
def qualified0 (s : State) : State := s.putLine 0 { s.line 0 with qualified := some (s.line 0).pin, qualifying := false }

theorem witness_WaitingStageStartsWhenHoldEnds :
    (waiting.port.executing = none ∧ waiting.softwareHold = true ∧ waiting.condition .hold = false ∧
      waiting.condition .ramp = false ∧ waiting.groupEntry 0 = .waiting .breast ∧
      waiting.firstStage 0 Stage.breast.later = some .ends ∧ 3 ∈ waiting.stageMembers 0 .ends ∧
      ({ (at3 (line .tending)).putGroup 0 (.waiting .breast) with softwareHold := true } : State).firstStage 0
        Stage.breast.later = none) ∧
    (let s := (withLine .ramp (some .high) (at3 (line .tending))).putGroup 0 (.waiting .breast);
      let ramped : State := { s with softwareHold := true };
      ramped.condition .hold = false ∧ ramped.condition .ramp = true ∧ ramped.groupEntry 0 = .waiting .breast) ∧
    (let s := (withLine .hold (some .high) (at3 { line .held with role := .head }) .low).putGroup 0 (.waiting .breast);
      (s.lineConfig 0).function ≠ .generalOut ∧ (s.line 0).qualifying = true ∧ s.conditions.berthHold = true ∧
      (qualified0 s).conditions = { s.conditions with berthHold := false } ∧ s.condition .ramp = false ∧
      s.groupEntry 0 = .waiting .breast ∧ s.firstStage 0 Stage.breast.later = some .ends ∧
      3 ∈ s.stageMembers 0 .ends) := by decide +kernel

theorem witness_ReleaseAllLetsEveryWorkingLineGo : (at3 (line .held)).port.executing = none := rfl

theorem witness_ConditionChangesReachTheirBlocks :
    (∀ f : Fin 4, let s := withLine ([.contact, .hold, .ramp, .emergency].getD f .contact) (some .low) berth;
      (s.lineConfig 0).function ≠ .generalOut ∧ (s.line 0).qualifying = true) ∧
    (let s := withLine .contact (some .low) berth;
      (qualified0 s).conditions = { s.conditions with contact := true } ∧ s.conditions.contact = false) ∧
    (let s := withLine .contact (some .high) berth .low;
      (qualified0 s).conditions = { s.conditions with contact := false }) ∧
    (let s := withLine .hold (some .low) berth;
      (qualified0 s).conditions = { s.conditions with berthHold := true } ∧ s.conditions.berthHold = false) ∧
    (let s := withLine .emergency (some .low) berth;
      (qualified0 s).conditions = { s.conditions with emergency := true } ∧ s.conditions.emergency = false) ∧
    (let s := withLine .emergency (some .high) berth .low;
      (qualified0 s).conditions = { s.conditions with emergency := false }) ∧
    (let s := withLine .ramp (some .low) berth;
      (qualified0 s).conditions = { s.conditions with ramp := true }) ∧
    (let s := withLine .ramp none (berth.putGroup 0 (.waiting .breast)) .low;
      (qualified0 s).conditions = { s.conditions with ramp := false } ∧ s.conditions.ramp = true ∧
        (qualified0 s).berthHold = false) ∧
    (let s := withLine .ramp none { berth.putGroup 0 (.waiting .breast) with softwareHold := true } .low;
      (qualified0 s).conditions = { s.conditions with ramp := false } ∧ s.conditions.ramp = true ∧
        (qualified0 s).berthHold = true) := by decide +kernel

theorem witness_ConditionChangesReachTheirBlocks_hold_ends :
    let s := withLine .hold none (at3 { line .hauling with deadline := .frozen 77 }) .low;
    (qualified0 s).conditions = { s.conditions with berthHold := false } ∧ s.conditions.berthHold = true ∧
      s.StationsShared ∧ s.NoneWaits :=
  ⟨by decide +kernel, by decide +kernel, shared_of _ rfl,
    noneWaits_berth⟩

theorem witness_PinLevelsAreQualified :
    (State.reset.line 7).pin = .low ∧ (State.reset.line 7).pin ≠ .high ∧
    ((withLine .generalOut none berth).lineConfig 0).function = .generalOut ∧
    ((run (.lineQualified 0) State.reset).line 0).qualifying = false ∧
    ((withLine .generalIn none berth).lineConfig 0).function ≠ .generalOut ∧
    ((withLine .generalIn none berth).line 0).qualifying = true ∧
    (qualified0 (withLine .generalIn none berth)).conditions = (withLine .generalIn none berth).conditions := by
  decide +kernel

theorem witness_OutputsAndAcknowledgement :
    ((withLine .generalOut none berth).lineConfig 0).function = .generalOut ∧
    ((withLine .generalOut none berth).lineConfig 7).function ≠ .generalOut ∧
    (withLine .emergency (some .high) berth).condition .emergency = true ∧ berth.condition .emergency = false := by
  decide +kernel

theorem witness_OutputsAndAcknowledgement_waits (f : LineFunction) (level : Option Level) :
    (withLine f level berth).port.Awaits := ⟨rfl, rfl, rfl⟩

theorem witness_ConditionsFollowTheirLines :
    (∀ l, (berth.lineConfig l).function ≠ .contact) ∧ ∃ l, ((withLine .hold none berth).lineConfig l).function = .hold := by
  decide +kernel

theorem witness_ConfigureBerthChecksAndWrites :
    (let body : BerthBody := { body1 with lines := #v[0, 0, 0, 0, 0, 0, 0, 8] };
      ∃ l : Fin 8, (body.lines[l]).extractLsb' 3 4 ≠ 0) ∧
    (∀ l : Fin 8, (body1.lines[l]).extractLsb' 3 4 = 0 ∧ ((body1.lines[l]).extractLsb' 0 3).toNat ≤ 5) ∧
    ((0 : Half).toNat = 0 ∧ 6000 < (6001 : Half).toNat) ∧
    (let body : BerthBody := { body1 with lines := #v[0, 0, 0, 0, 0, 0, 0, 6] };
      ∃ l : Fin 8, 5 < ((body.lines[l]).extractLsb' 0 3).toNat) ∧
    ∀ time ∈ [body1.pay, body1.fast, body1.haul, body1.clear, body1.stall, body1.stage], 1 ≤ time.toNat ∧ time.toNat ≤ 6000 := by
  exact ⟨by decide +kernel, by decide +kernel, by decide, by decide +kernel, by simp [body1]⟩

theorem witness_ConfigureBerthChecksAndWrites_records :
    (∃ h r, (at3 (line .armed)).record? h = some r ∧ r.state ≠ .prepared ∧ r.state ≠ .stowed) ∧
    (∀ h r, (at3 (line .stowed)).record? h = some r → r.state = .prepared ∨ r.state = .stowed) ∧
    (at3 (line .stowed)).port.Awaits :=
  ⟨⟨3, _, rfl, by decide, by decide⟩, fun _ _ e => by rw [(only_at3 e).2]; decide, awaits_at3 _⟩

theorem witness_BerthReportLayout :
    berth.port.Awaits ∧ berth.groupEntry 7 = .idle ∧ (berth.putGroup 7 (.running .spring [⟨3, 1⟩] 6000)).groupEntry 7 =
      .running .spring [⟨3, 1⟩] 6000 ∧ (berth.putGroup 0 (.waiting .ends)).groupEntry 0 = .waiting .ends :=
  ⟨awaits_berth, rfl, rfl, rfl⟩

theorem witness_StaleReferencesAreRefused :
    (at3 (line .tending)).port.Awaits ∧ (at3 (line .tending)).names (Ref.ofByte 3) = false ∧
      (at3 (line .tending)).names (Ref.ofByte 255) = false := ⟨awaits_at3 _, by decide +kernel, by decide +kernel⟩

theorem witness_BadTargetsAreRefused :
    berth.port.Awaits ∧ 2 < (3 : Byte).toNat ∧ 2 < (255 : Byte).toNat ∧ 7 < (8 : Byte).toNat :=
  ⟨awaits_berth, by decide, by decide, by decide⟩

/-- An ASSIGN at the edges of its checks. -/
def assignEdge : AssignBody := { assign9 with station := 23, lMin := 11999, lMax := 12000 }

theorem witness_AssignChecksAndCreates :
    (23 < (24 : Byte).toNat ∧ 7 < (8 : Byte).toNat ∧ 3 < (4 : Byte).toNat ∧ 12000 < (12001 : Half).toNat) ∧
    (assignEdge.station.toNat ≤ 23 ∧ assignEdge.group.toNat ≤ 7 ∧ assignEdge.role.toNat ≤ 3 ∧
      assignEdge.lMin.toNat < assignEdge.lMax.toNat ∧ assignEdge.lMax.toNat ≤ 12000) ∧
    2 ≤ (both (line .stowed) { line .tending with callTag := 62 }).count
      (fun r => r.station.val = assign9.station.toNat) ∧
    (at3 (line .stowed)).count (fun r => r.station.val = assignEdge.station.toNat) < 2 ∧
    (at3 (line .stowed)).record? 0 = none ∧
    ∀ h, ({ berth with table := Vector.replicate 32 { generation := 0, record := some (line .stowed) } } : State).record? h ≠
      none := by decide +kernel

theorem witness_AssignChecksAndCreates_tags :
    (∃ h r, (at3 (line .stowed)).record? h = some r ∧ r.station.val = assign9.station.toNat ∧ r.callTag = assign9.callTag) ∧
    (∀ h r, (at3 (line .stowed)).record? h = some r → r.station.val = assignEdge.station.toNat →
      r.callTag ≠ assignEdge.callTag) ∧
    (∀ h', h' < (0 : Fin 32) → (at3 (line .stowed)).record? h' ≠ none) ∧ (at3 (line .stowed)).port.Awaits :=
  ⟨⟨3, _, rfl, by decide, by decide⟩, fun _ _ e => by rw [(only_at3 e).2]; decide,
    fun h' below => absurd below (Fin.not_lt_zero h'), awaits_at3 _⟩

theorem witness_RetireAndAbandonFreeSlots :
    (at3 (line .stowed)).port.Awaits ∧ Given (at3 (line .stowed)) (line .stowed) ∧ Given (at3 (line .fault)) (line .fault) ∧
      (line .fault).state ≠ .stowed ∧ (line .fault).state ≠ .prepared :=
  ⟨awaits_at3 _, given_at3 _, given_at3 _, by decide, by decide⟩

theorem witness_FindAndReadRecord :
    (at3 (line .tending)).port.Awaits ∧ Given (at3 (line .tending)) (line .tending) ∧
      (23 : Byte).toNat ≤ 23 ∧ (7 : Byte).toNat ≤ 7 ∧ 2 < (3 : Byte).toNat ∧ 23 < (24 : Byte).toNat ∧ 7 < (8 : Byte).toNat ∧
      (line .tending).deadline = .absent ∧ (line .tending).proving = none ∧
      Given (at3 { line .paying with deadline := .running 6000 }) { line .paying with deadline := .running 6000 } ∧
      Given (at3 { line .paying with deadline := .frozen 1 }) { line .paying with deadline := .frozen 1 } ∧
      Given (at3 { line .tending with proving := some (part .push 0 0) })
        { line .tending with proving := some (part .push 0 0) } :=
  ⟨awaits_at3 _, given_at3 _, by decide, by decide, by decide, by decide, by decide, rfl, rfl, given_at3 _, given_at3 _,
    given_at3 _⟩

/-- A record with an alert and a notice pending. -/
def noticed : Record := { line .held with notices := { NoticeSet.empty with faultEntered := some .slack, stowed := true } }

/-- A record with a notice pending. -/
def noticedOnly : Record := { line .stowed with notices := { NoticeSet.empty with stowed := true } }

theorem witness_NextNoticeReportsTheLowestRecord :
    (at3 noticed).port.Awaits ∧ (at3 noticed).record? 3 = some noticed ∧ noticed.notices.anyAlert = true ∧
      (∀ h' r', h' < 3 → (at3 noticed).record? h' = some r' → r'.notices.anyAlert = false) ∧
      { at3 noticedOnly with noticesEnable := true }.alertPending = false ∧ noticedOnly.notices.anyNotice = true ∧
      (∀ h' r', h' < 3 → (at3 noticedOnly).record? h' = some r' → r'.notices.anyNotice = false) ∧
      (at3 noticedOnly).noticesEnable = false ∧ berth.noticePending = false :=
  ⟨awaits_at3 _, rfl, by decide, fun _ _ below e => absurd (only_at3 e).1 (Fin.ne_of_lt below), by decide +kernel, by decide,
    fun _ _ below e => absurd (only_at3 e).1 (Fin.ne_of_lt below), by decide +kernel, by decide +kernel⟩

theorem witness_ArmChecksAndArms :
    (at3 (line .prepared)).port.Awaits ∧ Given (at3 (line .prepared)) (line .prepared) ∧
      { at3 (line .prepared) with configured := false }.configured = false ∧ (line .held).state ≠ .prepared ∧
      (entry11 (fun e => { e with presence := .lost }) (at3 (line .prepared))).entry 11 ≠ (at3 (line .prepared)).entry 11 ∧
      ((at3 (line .prepared)).entry 11).presence = .present ∧
      (∃ h' r', (both (line .prepared) (line .fault)).record? h' = some r' ∧ r'.station = 11 ∧
        r'.state.engaged = true) ∧
      (∀ h' r', (at3 (line .prepared)).record? h' = some r' → r'.station = 11 → r'.state.engaged = false) ∧
      ((entry11 (fun e => { e with zeroing := true }) (at3 (line .prepared))).entry 11).zeroing = true ∧
      ((at3 (line .prepared)).entry 11).zeroing = false ∧ (at3 (line .prepared)).condition .contact = true ∧
      (withLine .contact none (at3 (line .prepared))).condition .contact = false ∧
      (memberTest 1 7).isSome = true ∧ (memberTest 2 255).isSome = true :=
  ⟨awaits_at3 _, given_at3 _, rfl, by decide, by decide +kernel, by decide +kernel, ⟨4, _, rfl, by decide, by decide⟩,
    fun _ _ e _ => by rw [(only_at3 e).2]; rfl, by decide +kernel, by decide +kernel, by decide +kernel, by decide +kernel, rfl,
    rfl⟩

/-- Station 11 last showed EYE FAST. -/
def fast (state : LineState) : State := entry11 (fun e => { e with lastReply := some ⟨8, 1200, 3140⟩ }) (at3 (line state))

theorem witness_DisarmHoldLineAndResume :
    (fast .held).port.Awaits ∧ Given (fast .held) (line .held) ∧ Given (fast .armed) (line .armed) ∧
      Given (fast .tending) (line .tending) ∧
      (((fast .held).entry 11).presence = .present ∧
        (((fast .held).entry 11).lastReply.any fun f => f.flags.getLsbD 3) = true) ∧
      (((at3 (line .held)).entry 11).lastReply.any fun f => f.flags.getLsbD 3) = false ∧
      (memberTest 1 0).isSome = true :=
  ⟨⟨rfl, rfl, rfl⟩, ⟨rfl, rfl⟩, ⟨rfl, rfl⟩, ⟨rfl, rfl⟩, by decide +kernel, by decide +kernel, rfl⟩

theorem witness_SetWritesPendingParts :
    (8191 : Half).toNat ≤ 8191 ∧ (at3 (line .tending)).port.Awaits ∧ Given (at3 (line .tending)) (line .tending) ∧
      Given (at3 (line .stowed)) (line .stowed) ∧ 8191 < (8192 : Half).toNat ∧ (7 : Byte).toNat ≤ 7 ∧
      (memberTest 1 7).isSome = true :=
  ⟨by decide, awaits_at3 _, given_at3 _, given_at3 _, by decide, by decide, rfl⟩

/-- A record in FAULT at a station that last showed some flags. -/
def faulted (flags : Byte) : State :=
  entry11 (fun e => { e with lastReply := some ⟨flags, 0, 0⟩ }) (at3 { line .fault with faultCause := some .slack })

theorem witness_ClearFaultGoesByTheLastReply :
    (faulted 8).port.Awaits ∧ (∀ flags : Fin 4, let s := faulted ([8, 16, 0x38, 32].getD flags 0)
      Given s { line .fault with faultCause := some .slack } ∧ (s.entry 11).presence = .present ∧
        (s.entry 11).lastReply ≠ none) ∧
      ((8 : Byte).getLsbD 3 = true ∧ (8 : Byte).getLsbD 5 = false) ∧
      ((16 : Byte).getLsbD 3 = false ∧ (16 : Byte).getLsbD 4 = true) ∧
      ((0x38 : Byte).getLsbD 5 = true ∧ (0x38 : Byte).getLsbD 4 = true) ∧ (32 : Byte).getLsbD 4 = false ∧
      (at3 (line .fault)).entry 11 ≠ (faulted 8).entry 11 ∧ Given (at3 (line .held)) (line .held) :=
  ⟨⟨rfl, rfl, rfl⟩, by decide +kernel, by decide, by decide, by decide, by decide, by decide +kernel, given_at3 _⟩

theorem witness_ApplicationClampsThePendingPart : (line .tending).TensionOk := tensionOk_line _

theorem witness_ApplyMakesThePendingPartActive :
    let r := { line .hauling with pending := some { p := 1900, b := 80 }, deadline := .running 9 };
    (at3 r).port.Awaits ∧ Given (at3 r) r ∧ r.applies = true ∧ (at3 r).berthHold = false ∧ (line .held).applies = false ∧
      ({ line .held with pending := some { p := 0, b := 0 } } : Record).applies = true ∧
      { at3 r with softwareHold := true }.berthHold = true ∧ (memberTest 2 0).isSome = true ∧ (at3 r).StationsShared :=
  ⟨awaits_at3 _, given_at3 _, rfl, by decide +kernel, rfl, rfl, by decide +kernel, rfl, shared_at3 _⟩

theorem witness_ReleaseLetsOneLineGo :
    (at3 (line .fault)).port.Awaits ∧ Given (at3 (line .fault)) (line .fault) ∧ Given (at3 (line .paying)) (line .paying) ∧
      (withLine .ramp none (at3 (line .fault))).condition .ramp = true ∧ (at3 (line .fault)).condition .ramp = false ∧
      (at3 (line .fault)).berthHold = false :=
  ⟨awaits_at3 _, given_at3 _, given_at3 _, by decide +kernel, by decide +kernel, by decide +kernel⟩

theorem witness_StagedReleaseStartsAndEnds :
    (at3 (line .held)).port.Awaits ∧ (withLine .ramp none berth).condition .ramp = true ∧
      (at3 (line .held)).condition .ramp = false ∧ (at3 (line .held)).berthHold = false ∧
      waiting.groupEntry 0 ≠ .idle ∧ (at3 (line .held)).groupEntry 7 = .idle ∧
      (∀ stage members remaining, berth.groupEntry 7 = .running stage members remaining → 0 < remaining) ∧
      (berth.putGroup 7 (.running .spring [⟨3, 1⟩] 1)).groupEntry 7 = .running .spring [⟨3, 1⟩] 1 ∧
      (berth.putGroup 7 (.running .ends [⟨3, 1⟩] 1)).interlocked = false ∧
      { berth with softwareHold := true }.interlocked = true :=
  ⟨awaits_at3 _, by decide +kernel, by decide +kernel, by decide +kernel, by decide +kernel, rfl,
    by rw [idle_berth]; exact nofun, rfl, by decide +kernel, by decide +kernel⟩

/-- A POLL of station 11 in progress, with a record. -/
def polled (r : Record) : State := inSlot .poll (at3 r)

/-- The slot that `polled` has in progress. -/
def poll : LinkSlot := { kind := .poll, sent := [], replaced := false }

theorem receives (r : Record) {f : Frame} {chars : List LinkChar} (good : poll.judge true chars = some (f, [])) :
    (polled r).Receives true chars poll f [] := ⟨rfl, by decide, mapped_at3 r 11, good⟩

theorem engaged_polled {r : Record} (at11 : r.station = 11) (engaged : r.state.engaged = true) :
    (polled r).engagedOn (polled r).scan.station = some 3 := by
  refine List.find?_eq_some_iff_append.mpr ⟨by simp [polled, inSlot, State.holds, at3, State.record?, berth, at11, engaged],
    [0, 1, 2], (List.finRange 32).drop 4, by decide, ?_⟩
  intro h mem
  simp only [List.mem_cons, List.not_mem_nil, or_false] at mem
  obtain rfl | rfl | rfl := mem <;> rfl

theorem witness_FailuresEnterFault :
    berth.record? 31 = none ∧ (at3 { line .paying with deadline := .running 1 }).record? 3 =
      some { line .paying with deadline := .running 1 } ∧
    (∀ n, ({ line .paying with deadline := .running 6000 } : Record).deadline = .running n → 5999 < n) ∧ LineState.fault.timed = false ∧
    (∀ state : Fin 3, let r := line ([.armed, .fault, .releasing].getD state .armed);
      (polled r).engagedOn (polled r).scan.station = some 3 ∧ (polled r).record? 3 = some r) ∧
    (polled (line .armed)).Receives true (frame 32 8191 16383) poll ⟨32, 8191, 16383⟩ [] ∧ (32 : Byte).getLsbD 5 = true ∧
    LineState.releasing.fails = true :=
  ⟨rfl, rfl, fun _ e => by cases e; decide, rfl, by decide +kernel, receives _ (by decide +kernel), by decide, rfl⟩

theorem witness_StationQueryAndZero :
    (23 < (24 : Byte).toNat ∧ 4 < (5 : Byte).toNat ∧ (4 : Byte).toNat ≤ 4 ∧ (23 : Byte).toNat ≤ 23) ∧
    State.reset.mapped 23 = false ∧ (berth.mapped 23 = true ∧ (some DiagKind.armCycles).map DiagKind.code = some (4 : Byte).toNat) ∧
    State.reset.configured = false ∧ (State.reset.entry 23).presence ≠ .present ∧ (berth.entry 23).presence = .present ∧
    ((entry11 (fun e => { e with zeroing := true }) berth).entry 11).zeroing = true ∧ (berth.entry 23).zeroing = false ∧
    ((entry11 (fun e => { e with command := some .free }) berth).entry 11).command = some .free ∧
    ((entry11 (fun e => { e with lastReply := some ⟨2, 0, 0⟩ }) berth).entry 11).lastReply = some ⟨2, 0, 0⟩ ∧
    (2 : Byte).getLsbD 1 = true ∧ (berth.entry 23).command ≠ some .free := by decide +kernel

theorem witness_StationQueryAndZero_records :
    berth.port.Awaits ∧ (∃ h r, (at3 (line .held)).record? h = some r ∧ r.station = 11 ∧ r.state.engaged = true) ∧
      (∀ h r, (at3 (line .stowed)).record? h = some r → r.station = 11 → r.state.engaged = false) ∧
      (∀ f, ((at3 (line .stowed)).entry 11).lastReply = some f → f.flags.getLsbD 1 = false) :=
  ⟨awaits_berth, ⟨3, _, rfl, rfl, rfl⟩, fun _ _ e _ => by rw [(only_at3 e).2]; rfl,
    fun _ e => by rw [entry_at3] at e; cases e⟩

theorem witness_ProvingRequestsCheckAndAct :
    let r := { line .tending with proving := some (part .dwell 9 120) };
    (at3 r).port.Awaits ∧ Given (at3 r) r ∧ Given (at3 (line .tending)) (line .tending) ∧
      Given (at3 (line .held)) (line .held) ∧ 1 < (2 : Byte).toNat ∧ (1 : Byte).toNat ≤ 1 ∧ r.proving ≠ none ∧
      (part .push 0 0).phase ≠ .dwell ∧ (part .dwell 9 120).phase = .dwell :=
  ⟨awaits_at3 _, given_at3 _, given_at3 _, given_at3 _, by decide, by decide, by decide, by decide, rfl⟩

/-- Station 23 is next in the scan. -/
def next23 (f : StationEntry → StationEntry) : State :=
  { berth.putEntry 23 (f (berth.entry 23)) with scan := { station := 23, slot := none } }

theorem witness_SlotSendsByTheStationsEntry :
    (polled (line .held)).scan.slot ≠ none ∧ State.reset.configured = false ∧
    ((next23 id).scan.station = 23 ∧ (next23 id).scan.slot = none ∧ (next23 id).configured = true ∧
      (next23 id).mapped 23 = true ∧ ((next23 id).entry 23).command = none ∧ ((next23 id).entry 23).pendingKind = none) ∧
    ((next23 fun e => { e with command := some .zero }).entry 23).command = some .zero ∧
    ((next23 fun e => { e with pendingKind := some .armCycles }).entry 23).pendingKind = some .armCycles ∧
    { next23 id with config := { berth.config with map := 0x7fffff } }.mapped 23 = false := by decide +kernel

theorem witness_ThirdMissLosesTheStation :
    berth.scan.slot = none ∧ (inSlot .silent berth).scan.slot = some { kind := .silent, sent := [], replaced := false } ∧
    { polled (line .held) with config := { berth.config with map := 0 } }.mapped 11 = false ∧
    poll.judge true [] = none ∧ poll.judge true (frame 0 0 0 ++ [0]) = none ∧
    poll.judge false (frame 0 0 0) = none ∧
    (State.reset.entry 11).presence ≠ .present ∧
    (∀ misses : Fin 3, let s := entry11 (fun e => { e with missCount := misses }) (polled (line .armed));
      (s.entry 11).presence = .present ∧ (s.entry 11).missCount = misses) ∧
    (inSlot .poll berth).engagedOn 11 = none ∧
    (∀ state : Fin 3, let r := line ([.armed, .fault, .tending].getD state .armed);
      (polled r).engagedOn (polled r).scan.station = some 3 ∧ (polled r).record? 3 = some r) ∧
    LineState.tending.fails = true := by decide +kernel

theorem witness_ThirdMissLosesTheStation_misses :
    (entry11 (fun e => { e with missCount := 2 }) (polled (line .tending))).Misses true [] poll :=
  ⟨rfl, by decide, mapped_berth 11, by decide +kernel⟩

theorem witness_GoodReplyUpdatesTheStation :
    (polled (line .stowed)).Receives true (frame 0x40 0 0) poll ⟨0x40, 0, 0⟩ [] ∧
    (polled (line .stowed)).engagedOn 11 = none ∧
    (entry11 (fun e => { e with command := some .zero, toggle := true }) (inSlot (.command .zero true) berth)).Receives
      true (frame 0xc0 0 0) { kind := .command .zero true, sent := [], replaced := false } ⟨0xc0, 0, 0⟩ [] ∧
    (inSlot (.query .brakeWear) berth).Receives true (frame 0 0 0 ++ diagnostic 2 37)
      { kind := .query .brakeWear, sent := [], replaced := false } ⟨0, 0, 0⟩ (diagnostic 2 37) ∧
    diagnosticFrame (diagnostic 2 37) = some (byteOf DiagKind.brakeWear.code, 37) ∧
    ∀ value, diagnosticFrame (diagnostic 3 37) ≠ some (byteOf DiagKind.brakeWear.code, value) := by
  refine ⟨receives _ (by decide +kernel), by decide +kernel, ⟨rfl, by decide, rfl, by decide +kernel⟩,
    ⟨rfl, by decide, rfl, by decide +kernel⟩, by decide +kernel, fun value e => ?_⟩
  have kind := congrArg (Option.map Prod.fst) e
  revert kind
  simp only [Option.map_some]
  decide +kernel

theorem witness_FreshCompletionMovesTheRecordOn :
    (∀ state : Fin 7, let r := line ([.armed, .fault, .paying, .makingFast, .hauling, .releasing, .rewinding].getD state .armed);
      (polled r).engagedOn (polled r).scan.station = some 3 ∧ (polled r).record? 3 = some r) ∧
    (polled (line .paying)).Receives true (frame 0x1f 1160 0) poll ⟨0x1f, 1160, 0⟩ [] ∧
    (polled (line .hauling)).Receives true (frame 1 1159 2000) poll ⟨1, 1159, 2000⟩ [] ∧
    (polled (line .hauling)).Receives true (frame 1 1159 2001) poll ⟨1, 1159, 2001⟩ [] ∧
    (polled (line .rewinding)).Receives true (frame 0 0 3139) poll ⟨0, 0, 3139⟩ [] ∧
    ((0x1f : Byte).getLsbD 5 = false ∧ (0x1f : Byte).getLsbD 0 = true ∧ (0x1f : Byte).getLsbD 2 = true ∧
      (0x1f : Byte).getLsbD 3 = true ∧ (0x1f : Byte).getLsbD 4 = true) ∧
    ((line .hauling).p - (line .hauling).b ≤ 1160 ∧ 1159 < (line .hauling).p - (line .hauling).b ∧ 2000 ≤ (line .hauling).lMin ∧
      (line .hauling).lMin < 2001) ∧
    (polled (line .paying)).berthHold = false ∧ { polled (line .paying) with softwareHold := true }.berthHold = true ∧
    (((polled (line .paying)).afterReply poll ⟨0x1f, 1160, 0⟩ []).entry 11).command = none ∧
    (((entry11 (fun e => { e with command := some .free }) (polled (line .releasing))).afterReply poll ⟨0x1f, 1160, 0⟩
      []).entry 11).command ≠ none :=
  ⟨by decide +kernel, receives _ (by decide +kernel), receives _ (by decide +kernel), receives _ (by decide +kernel),
    receives _ (by decide +kernel), by decide, by decide, by decide +kernel, by decide +kernel, by decide +kernel,
    by decide +kernel⟩

/-- The state of a record after steps 1 and 2 of a sample without MOVE DONE (R53). -/
def sampled2 (r : Record) (m : Nat) : Record := (r.sampled ⟨0, m, r.len⟩).noteOverload

theorem witness_RegulatedSamplesTakeTheirSequence :
    (∀ held : Bool, let r := line (if held then .held else .tending);
      (polled r).engagedOn (polled r).scan.station = some 3 ∧ (polled r).record? 3 = some r) ∧
    (polled (line .held)).Receives true (frame 4 1200 3140) poll ⟨4, 1200, 3140⟩ [] ∧
    ((4 : Byte).getLsbD 5 = false ∧ (4 : Byte).getLsbD 2 = true) ∧
    (((polled (line .held)).afterReply poll ⟨4, 1200, 3140⟩ []).entry 11).command = none ∧
    (sampled2 { line .tending with step := some { dir := .pay, amount := 25 } } 1320).step ≠ none ∧
    { polled (line .tending) with configured := false }.configured = false ∧
    (sampled2 (line .tending) 1200).step = none ∧
    (sampled2 { line .tending with slackRun := 4 } 600).countSlack.slackRun = 5 ∧
    (let r3 := (sampled2 (line .tending) 1240).countSlack.movePush;
      r3.slackRun ≠ 5 ∧ r3.error.natAbs ≤ r3.b) ∧
    (let r3 := (sampled2 (line .tending) 1241).countSlack.movePush;
      r3.b < r3.error.natAbs ∧ (r3.voted r3.voteDir r3.voteWeight).c ≠ r3.t) ∧
    (let r3 := (sampled2 { line .tending with c := 23, lean := some .pay } 1241).countSlack.movePush;
      r3.b < r3.error.natAbs ∧ (r3.voted r3.voteDir r3.voteWeight).c = r3.t) :=
  ⟨by decide +kernel, receives _ (by decide +kernel), by decide, by decide +kernel, by decide +kernel, rfl, by decide +kernel,
    by decide +kernel, by decide +kernel, by decide +kernel, by decide +kernel⟩

theorem witness_EffectiveSetpointStaysBetweenTheLimits :
    (line .tending).proving = none ∧ (line .tending).TensionOk ∧ 600 ≤ (line .tending).k ∧ (line .tending).q ≤ 2000 ∧
      ({ line .tending with proving := some (part .dwell 0 760) } : Record).proving = some (part .dwell 0 760) :=
  ⟨rfl, tensionOk_line _, by decide, by decide, rfl⟩

theorem witness_EpisodesTotalsAndProvingPhases :
    let r := line .tending;
    (r.TensionOk ∧ r.overload = false ∧ r.step = none ∧ r.q ≤ 2000 ∧ 1959 < r.q - r.b ∧ r.q - r.b ≤ 1960 ∧ 600 ≤ r.k ∧
      r.k < 601) ∧
    ((part .push 1 0).phase = .push ∧ (part .push 1 0).counter + 1 < (part .push 1 0).pushCount ∧
      (part .push 2 0).pushCount ≤ (part .push 2 0).counter + 1 ∧ (part .push 2 0).dwells = false ∧
      ({ part .push 2 0 with dwells := true } : ProvingPart).dwells = true) ∧
    ((part .dwell 65535 0).phase = .dwell ∧ (part .dwell 65535 0).phase ≠ .push) ∧
    ((part (.settle 1 none) 6 0).phase = .settle 1 none ∧
      (part (.settle 1 none) 6 0).counter + 1 < (part (.settle 1 none) 6 0).settleCount ∧
      (part (.settle 1 none) 7 0).settleCount ≤ (part (.settle 1 none) 7 0).counter + 1) :=
  ⟨⟨tensionOk_line _, by decide, by decide, by decide, by decide, by decide, by decide, by decide⟩, by decide, by decide,
    by decide⟩

theorem witness_VoteWeightFollowsTheExcess :
    let r := { line .tending with m := 1241 };
    r.TensionOk ∧ r.error.natAbs = r.b + 1 ∧ 1 ≤ 1 ∧ r.overload = false ∧ (0 ≤ 6 ∧ 0 * r.b < 1 ∧ 1 ≤ (0 + 1) * r.b) ∧
      ({ r with m := 1521 } : Record).error.natAbs = r.b + 281 ∧ 7 * r.b < 281 ∧
      ({ r with m := 2000, overload := true } : Record).overload = true :=
  ⟨tensionOk_line .tending |> fun ok => ⟨ok.1, ok.2, ok.3, ok.4, ok.5, ok.6⟩, by decide, by decide, by decide, by decide,
    by decide, by decide, rfl⟩

theorem witness_VoteUpdatesDriftAndLean :
    let r := { line .tending with lean := some .pay, c := 24 };
    (line .tending).lean = none ∧ r.lean = some .pay ∧ r.c = r.t ∧ (Dir.pay ≠ .haul) ∧ 8 < r.c ∧ 24 = r.c ∧
      ({ r with c := 0 } : Record).c < 1 := by decide

theorem witness_CommandSlotArbitration :
    ((entry11 (fun e => { e with command := some .free }) berth).entry 11).command = some .free ∧
    (Command.rewind ≠ .free) ∧
    ((entry11 (fun e => { e with command := some .stopBrake }) berth).entry 11).command = some .stopBrake ∧
    (berth.entry 11).command ≠ some .zero ∧ (berth.entry 11).command ≠ some .free ∧
    (berth.entry 11).command ≠ some .stopBrake := by decide +kernel

theorem witness_RequestOperandsRoundTrip :
    (Instr.badRequestHeader 255 []).message = some (255, []) ∧ (Instr.badRequestHeader 255 []).wellFormed = true ∧
      (Instr.proveStop 0).message = some (21, [0]) ∧ RequestCode.ofByte 23 = some .setOutputs := by decide

theorem witness_LinkFramesRoundTrip :
    (1 ≤ 1 ∧ 11 ≤ 11 ∧ (0 : Byte) ≠ checkSum (2 :: halfBytes 37) ∧ (8191 : Half).toNat ≤ 8191 ∧
      (16383 : Half).toNat ≤ 16383) ∧
    ((0 : Byte) ≠ checkSum (2 :: (halfBytes 37 ++ halfBytes 0)) ∧ (frame 2 37 0).tail.length ≠ 6 ∧
      ∃ c ∈ (frame 2 37 0).set 0 (linkChar true 2), LinkChar.good c = false) ∧
    poll.judge true (frame 2 37 0) = some (⟨2, 37, 0⟩, []) ∧
    { poll with kind := .query .brakeWear }.judge true (frame 2 37 0 ++ [0]) = some (⟨2, 37, 0⟩, [0]) := by
  decide +kernel

theorem witness_IdentityIsFixedForLife :
    (∃ t, exec (.retire 0 35) (at3 (line .stowed)) = .next t) ∧ Instr.retire 0 35 ≠ .powerOnReset ∧
      (at3 (line .stowed)).record? 3 = some (line .stowed) ∧ (at3 (line .stowed)).record? 31 = none :=
  ⟨⟨_, rfl⟩, by decide, rfl, rfl⟩

theorem witness_InterlocksHoldBackEveryRelease :
    let s := withLine .ramp none (at3 (line .tending))
    exec .releaseAll s = .next (run .releaseAll s) ∧ (run .releaseAll s).condition .ramp = true ∧
      (s.entry 11).command ≠ some .free ∧ ((run .releaseAll s).entry 11).command = some .free :=
  ⟨rfl, by decide +kernel, by decide +kernel, by decide +kernel⟩

/-- A record one vote below its trip level, about to be given sample 7 of section 4.14. -/
def tripping : State := polled { line .tending with c := 23, lean := some .pay }

theorem witness_StepsAreIssuedOnlyWithinLimits :
    tripping.StationsShared ∧ tripping.LinkOk ∧
      exec (.slotEnd true (frame 8 1498 3140)) tripping = .next (run (.slotEnd true (frame 8 1498 3140)) tripping) ∧
      (tripping.record? 3).map (·.step) = some none ∧
      ((run (.slotEnd true (frame 8 1498 3140)) tripping).record? 3).map (·.step) =
        some (some { dir := .pay, amount := 25 }) :=
  ⟨shared_of _ rfl,
    linkOk_of (line .tending) rfl rfl rfl, rfl, by decide +kernel, by decide +kernel⟩

theorem fieldsOk_tending : (line .tending).FieldsOk where
  lengths := ⟨by decide, by decide⟩
  tension := tensionOk_line _
  measured := by decide
  pending := nofun
  regulation := ⟨by decide, by decide, by decide, by decide, by decide, by decide, fun _ => rfl⟩
  parts := ⟨by decide, nofun, nofun, nofun, by decide, nofun⟩
  proving := nofun

/-- The berth with one record and one command waiting. -/
def stepping (r : Record) : State := { at3 r with pending := [.statusRead] }

theorem witness_TensionBoundsAreKept :
    (stepping (line .tending)).EachRecord Record.TensionOk ∧ ∃ t, step (stepping (line .tending)) = .next t :=
  ⟨each_at3 (tensionOk_line _), _, rfl⟩

theorem witness_RecordFieldsStayInRange :
    (stepping (line .tending)).EachRecord Record.FieldsOk ∧ ∃ t, step (stepping (line .tending)) = .next t :=
  ⟨each_at3 fieldsOk_tending, _, rfl⟩

theorem witness_DeadlinesFollowBerthHold :
    let s := stepping { line .hauling with deadline := .running 6000 };
    s.HoldOk ∧ s.TimesOk ∧ ∃ t, step s = .next t := by
  refine ⟨fun h r e _ => ?_, ⟨?_, fun h r n e d => ?_, fun h r n e d => ?_, fun g _ _ _ e => ?_⟩, _, rfl⟩
  · rw [(only_at3 e).2]
    exact ⟨6000, rfl⟩
  · exact ⟨⟨by decide, by decide⟩, ⟨by decide, by decide⟩, ⟨by decide, by decide⟩, ⟨by decide, by decide⟩,
      ⟨by decide, by decide⟩, ⟨by decide, by decide⟩⟩
  · rw [(only_at3 e).2] at d
    cases d
    exact ⟨by decide, by decide⟩
  · rw [(only_at3 e).2] at d
    cases d
  · exact nomatch (idle_berth g).symm.trans e

theorem witness_StationsAreSharedByTheRules :
    (stepping (line .tending)).StationsShared ∧ ∃ t, step (stepping (line .tending)) = .next t :=
  ⟨shared_of _ rfl, _, rfl⟩

theorem witness_StationTableStaysConsistent :
    (stepping (line .tending)).StationsShared ∧ (stepping (line .tending)).LinkOk ∧
      ∃ t, step (stepping (line .tending)) = .next t :=
  ⟨witness_StationsAreSharedByTheRules.1, linkOk_of (line .tending) rfl rfl rfl, _, rfl⟩

/-- A running stage with its one member. -/
def staging : State := (stepping { line .releasing with deadline := .running 300 }).putGroup 0 (.running .breast [⟨3, 1⟩] 450)

theorem witness_RunningStagesListReleasingMembers : staging.GroupsOk ∧ ∃ t, step staging = .next t := by
  refine ⟨fun g stage members remaining e => ?_, _, rfl⟩
  by_cases first : g = 0
  · subst first
    cases (show GroupEntry.running .breast [⟨3, 1⟩] 450 = _ from e)
    refine ⟨by decide, by decide, fun ref mem => ?_⟩
    cases List.mem_singleton.mp mem
    exact ⟨_, rfl, rfl, rfl, rfl, rfl⟩
  · have idle : ∀ g : Fin 8, g ≠ 0 → staging.groupEntry g = .idle := by decide +kernel
    exact nomatch (idle g first).symm.trans e

theorem witness_PortMailboxesStayConsistent :
    let s := { ported fun p => { p with executing := busy false, posted := some .holdAll } with pending := [.requestEnd] };
    s.port.Ok ∧ ∃ t, step s = .next t :=
  ⟨⟨fun _ => ⟨rfl, rfl⟩, fun _ => rfl, by decide, nofun, nofun, nofun, fun _ e => by cases e; decide⟩, _, rfl⟩

end Sys2Proof.Tests
end

section
/-! PROOF. R6: a request that names a single record by a stale reference is refused with BAD REF, whichever of the fourteen
requests it is. One check, `withReference`, stands before everything else in each of them. -/

namespace Sys2Proof.Machine

variable {s : State} {ref : Byte}

/-- A reference that passes R6's check names a record, at the slot's present generation. -/
theorem State.names_iff (s : State) (ref : Ref) :
    s.names ref = true ↔ (∃ r, s.record? ref.handle = some r) ∧ s.generation ref.handle = ref.generation := by
  rw [State.names, Bool.and_eq_true, Option.isSome_iff_exists, decide_eq_true_iff]

/-! ### The check of a reference -/

theorem withReference_stale (stale : s.names (Ref.ofByte ref) = false) (k : Fin 32 → Record → Taken) :
    withReference s ref k = refuse s .badRef := by
  simp [withReference, stale]

/-- On a reference target the reference is checked before what refuses the request whole and before the record. -/
theorem RecordAction.onTarget_reference (a : RecordAction) (whole : State → Option Result) (s : State) (ref : Byte) :
    a.onTarget whole s 0 ref = withReference s ref fun h r =>
      match whole s with
      | some result => refuse s result
      | none =>
        match a.refusal s r with
        | some result => refuse s result
        | none => doneCounts (a.act s h) 1 0 := rfl

theorem RecordAction.onTarget_stale (stale : s.names (Ref.ofByte ref) = false) (a : RecordAction)
    (whole : State → Option Result) : a.onTarget whole s 0 ref = refuse s .badRef := by
  rw [RecordAction.onTarget_reference, withReference_stale stale]

/-- RELEASE and RETIRE look at the target kind themselves, and then check a reference like the others. -/
theorem takeRelease_reference (s : State) (ref : Byte) : takeRelease 0 ref s = releaseOne s ref := rfl

theorem takeRetire_reference (s : State) (ref : Byte) :
    takeRetire 0 ref s = retireAction.onTarget (fun _ => none) s 0 ref := rfl

theorem takeRelease_stale (stale : s.names (Ref.ofByte ref) = false) : takeRelease 0 ref s = refuse s .badRef := by
  rw [takeRelease_reference, releaseOne, withReference_stale stale]

theorem takeRetire_stale (stale : s.names (Ref.ofByte ref) = false) : takeRetire 0 ref s = refuse s .badRef := by
  rw [takeRetire_reference, RecordAction.onTarget_stale stale]

/-! ### The fourteen requests -/

/-- The requests that name one record by a reference: by a target of kind 0, or by a bare reference byte. -/
inductive NamesRecord (ref : Byte) : RequestCode → List Byte → Prop
  | arm : NamesRecord ref .arm [0, ref]
  | disarm : NamesRecord ref .disarm [0, ref]
  | set (p b : Half) : NamesRecord ref .set ([0, ref] ++ halfBytes p ++ halfBytes b)
  | apply : NamesRecord ref .apply [0, ref]
  | holdLine : NamesRecord ref .holdLine [0, ref]
  | resume : NamesRecord ref .resume [0, ref]
  | release : NamesRecord ref .release [0, ref]
  | clearFault : NamesRecord ref .clearFault [ref]
  | retire : NamesRecord ref .retire [0, ref]
  | abandon : NamesRecord ref .abandon [ref]
  | readRecord : NamesRecord ref .readRecord [ref]
  | proveStart (push : Byte) (settle : Half) (increment direction dwell : Byte) :
    NamesRecord ref .proveStart ([ref, push] ++ halfBytes settle ++ [increment, direction, dwell])
  | proveRelease : NamesRecord ref .proveRelease [ref]
  | proveStop : NamesRecord ref .proveStop [ref]

theorem NamesRecord.length {code : RequestCode} {body : List Byte} (named : NamesRecord ref code body) :
    body.length = code.bodyLength := by
  cases named <;> rfl

/-- The block that owns such a request refuses it for its reference, whatever else its body and the state hold. -/
theorem NamesRecord.runRequest_stale {code : RequestCode} {body : List Byte} (named : NamesRecord ref code body)
    (stale : s.names (Ref.ofByte ref) = false) : runRequest code body s = refuse s .badRef := by
  cases named with
  | arm => exact armAction.onTarget_stale stale unlessConfigured
  | disarm => exact disarmAction.onTarget_stale stale fun _ => none
  | set p b => rw [runRequest, takeSet]; exact RecordAction.onTarget_stale stale _ _
  | apply => exact applyAction.onTarget_stale stale fun _ => none
  | holdLine => exact holdLineAction.onTarget_stale stale fun _ => none
  | resume => exact resumeAction.onTarget_stale stale fun _ => none
  | release => exact takeRelease_stale stale
  | retire => exact takeRetire_stale stale
  | clearFault => rw [runRequest, takeClearFault]; exact withReference_stale stale _
  | abandon => rw [runRequest, takeAbandon]; exact withReference_stale stale _
  | readRecord => rw [runRequest, takeReadRecord]; exact withReference_stale stale _
  | proveStart => rw [runRequest, takeProveStart]; exact withReference_stale stale _
  | proveRelease => rw [runRequest, takeProveRelease]; exact withReference_stale stale _
  | proveStop => rw [runRequest, takeProveStop]; exact withReference_stale stale _

/-- R6 at the port: the stale request is answered with BAD REF and nothing but the port changes. -/
theorem NamesRecord.sendRequest_stale {code : RequestCode} {body : List Byte} (named : NamesRecord ref code body)
    (waits : s.port.Awaits) (stale : s.names (Ref.ofByte ref) = false) :
    sendRequest code body s = .next (s.answering s code .badRef []) :=
  sendRequest_answered waits code body named.length (named.runRequest_stale stale)

end Sys2Proof.Machine

namespace Sys2Proof

open Machine

/-- Settles O19: each of the fourteen request rows sends a message that names a record, and R6's check comes first. -/
theorem staleReferencesAreRefused : Obligations.StaleReferencesAreRefused := by
  intro s ref waits
  refine ⟨s.names_iff _, fun stale => ?_⟩
  have refused {code : RequestCode} {body : List Byte} (named : NamesRecord ref code body) :
      sendRequest code body s = .next (s.answering s code .badRef []) := named.sendRequest_stale waits stale
  exact ⟨refused .arm, refused .disarm, fun p b => refused (.set p b), refused .apply, refused .holdLine, refused .resume,
    refused .release, refused .clearFault, refused .retire, refused .abandon, refused .readRecord,
    fun push settle increment direction dwell => refused (.proveStart push settle increment direction dwell),
    refused .proveRelease, refused .proveStop⟩

end Sys2Proof
end

section
/-! PROOF. R56 and R60: the effective setpoint lies between the slack and render limits with a band to spare on either side,
and the weight of a vote follows its excess. The first also says why a vote of an overload episode is a PAY vote. -/

namespace Sys2Proof.Machine

variable {r : Record} {x n : Nat}

/-! ### The effective setpoint (R56) -/

theorem clampInt_mem {low high : Int} (nonempty : low ≤ high) (v : Int) :
    low ≤ clampInt low high v ∧ clampInt low high v ≤ high :=
  ⟨le_max_left .., max_le nonempty (min_le_left ..)⟩

theorem clampInt_of_mem {low high v : Int} (above : low ≤ v) (below : v ≤ high) : clampInt low high v = v := by
  rw [clampInt, min_eq_right below, max_eq_right above]

theorem Record.offset_of_none (absent : r.proving = none) : r.offset = 0 := by
  simp [Record.offset, absent]

theorem Record.offset_of_some {p : ProvingPart} (present : r.proving = some p) : r.offset = p.offset := by
  simp [Record.offset, present]

/-- Without a proving part P alone is clamped. -/
theorem Record.effective_of_none (absent : r.proving = none) :
    r.effective = clampInt (r.k + r.b + 1) (r.q - r.b - 1) r.p := by
  rw [Record.effective, Record.offset_of_none absent, add_zero]

theorem Record.effective_of_some {p : ProvingPart} (present : r.proving = some p) :
    r.effective = clampInt (r.k + r.b + 1) (r.q - r.b - 1) (r.p + p.offset) := by
  rw [Record.effective, Record.offset_of_some present]

/-- R92 places P itself inside the range of R56. -/
theorem Record.TensionOk.setpoint_mem (ok : r.TensionOk) :
    (r.k + r.b + 1 : Int) ≤ r.p ∧ (r.p : Int) ≤ r.q - r.b - 1 := by
  have slack := ok.slackBelow
  have render := ok.renderAbove
  omega

theorem Record.TensionOk.effective_mem (ok : r.TensionOk) :
    (r.k + r.b + 1 : Int) ≤ r.effective ∧ r.effective ≤ r.q - r.b - 1 :=
  clampInt_mem (ok.setpoint_mem.1.trans ok.setpoint_mem.2) _

theorem Record.TensionOk.effective_eq_setpoint (ok : r.TensionOk) (absent : r.proving = none) : r.effective = r.p := by
  rw [Record.effective_of_none absent, clampInt_of_mem ok.setpoint_mem.1 ok.setpoint_mem.2]

/-! ### The weight of a vote (R60) -/

theorem Record.voteWeight_of_overload (episode : r.overload = true) : r.voteWeight = 8 := by
  rw [Record.voteWeight, if_pos episode]

/-- Outside an episode the weight is R60's formula in the excess `x`. -/
theorem Record.voteWeight_of_excess (episode : r.overload = false) (excess : r.error.natAbs = r.b + x) :
    r.voteWeight = min 8 (1 + (x - 1) / r.b) := by
  rw [Record.voteWeight, episode, if_neg Bool.false_ne_true, excess, Nat.add_sub_cancel_left]

theorem Record.voteWeight_mem (r : Record) : 1 ≤ r.voteWeight ∧ r.voteWeight ≤ 8 := by
  unfold Record.voteWeight
  split
  · decide
  · exact ⟨le_min (by decide) (Nat.le_add_right ..), min_le_left ..⟩

/-- An excess in the row `n·B + 1 .. (n + 1)·B` of R60's table has the quotient `n`. -/
theorem excess_div_eq {b : Nat} (above : n * b < x) (upTo : x ≤ (n + 1) * b) : (x - 1) / b = n :=
  Nat.div_eq_of_lt_le (Nat.le_sub_one_of_lt above) (by omega)

theorem Record.voteWeight_of_row (episode : r.overload = false) (excess : r.error.natAbs = r.b + x) (row : n ≤ 6)
    (above : n * r.b < x) (upTo : x ≤ (n + 1) * r.b) : r.voteWeight = n + 1 := by
  rw [Record.voteWeight_of_excess episode excess, excess_div_eq above upTo]
  omega

/-- The table's last row: from `7·B + 1` on the cap holds. -/
theorem Record.voteWeight_of_lastRow (episode : r.overload = false) (excess : r.error.natAbs = r.b + x) (band : 1 ≤ r.b)
    (above : 7 * r.b < x) : r.voteWeight = 8 := by
  have quotient : 7 ≤ (x - 1) / r.b := (Nat.le_div_iff_mul_le band).mpr (Nat.le_sub_one_of_lt above)
  rw [Record.voteWeight_of_excess episode excess]
  omega

/-! ### The direction of a vote in an overload episode (R57, R59) -/

/-- An episode is set after a sample at Q or above, or when it was set and the sample is not below Q − B (R57). -/
theorem Record.overload_noteOverload (r : Record) :
    r.noteOverload.overload = true ↔ r.q ≤ r.m ∨ r.overload = true ∧ r.q - r.b ≤ r.m := by
  unfold Record.noteOverload
  split
  case isTrue render =>
    split
    case isTrue episode => simp [render, episode]
    case isFalse => simp [render, Record.raise]
  case isFalse render =>
    split
    case isTrue below => simpa [render] using fun _ => Nat.lt_sub_iff_add_lt.mp below
    case isFalse notBelow => simp [render, Nat.le_of_not_lt notBelow]

/-- A sample that leaves an episode set is at Q − B or above, and so above E. -/
theorem Record.TensionOk.voteDir_of_overload (ok : r.TensionOk) (episode : r.noteOverload.overload = true) :
    r.voteDir = .pay := by
  have high : r.q - r.b ≤ r.m := by
    rcases r.overload_noteOverload.mp episode with render | ⟨-, notBelow⟩
    · exact (Nat.sub_le ..).trans render
    · exact notBelow
  have tight : 0 < r.error := by
    have upper := ok.effective_mem.2
    unfold Record.error
    omega
  rw [Record.voteDir, if_pos tight]

end Sys2Proof.Machine

namespace Sys2Proof

open Machine

/-- Settles O43: R56's formula is the model's own, and the consequences are that R92 puts P, hence the clamped sum, between
the limits with a band to spare. -/
theorem effectiveSetpointStaysBetweenTheLimits : Obligations.EffectiveSetpointStaysBetweenTheLimits := by
  intro r
  refine ⟨Record.effective_of_none, fun _ => Record.effective_of_some, fun ok => ?_⟩
  have within := ok.effective_mem
  exact ⟨within, ok.effective_eq_setpoint, fun m slack => by omega, fun m render => by omega⟩

/-- Settles O45: the formula, its rows and its cap outside an episode, 8 during one, and the direction of an episode's
vote. -/
theorem voteWeightFollowsTheExcess : Obligations.VoteWeightFollowsTheExcess := by
  intro r x ok excess _
  exact ⟨fun episode => ⟨Record.voteWeight_of_excess episode excess,
      fun _ row above upTo => Record.voteWeight_of_row episode excess row above upTo,
      Record.voteWeight_of_lastRow episode excess ok.band.1⟩,
    Record.voteWeight_of_overload, r.voteWeight_mem, ok.voteDir_of_overload⟩

end Sys2Proof
end

section
/-! PROOF. R85 and R92: an application of a pending part clamps into two ranges that R92 keeps non-empty, and every command
keeps the bounds of the tension values. Only ASSIGN and an application write P, B, Q or K; every other rewriting of a record
leaves the four as they are. -/

namespace Sys2Proof.Machine

variable {r : Record} {p : Nat}

/-! ### The values that R92 bounds -/

/-- P, B, Q and K of a record. -/
def Record.tension (r : Record) : Nat × Nat × Nat × Nat := (r.p, r.b, r.q, r.k)

/-- The bounds speak of the four tension values alone. -/
theorem Record.TensionOk.of_tension {r' : Record} (ok : r.TensionOk) (same : r'.tension = r.tension) : r'.TensionOk := by
  obtain ⟨slackBelow, renderAbove, setpoint, band, quarter, render⟩ := ok
  simp only [Record.tension, Prod.mk.injEq] at same
  obtain ⟨p, b, q, k⟩ := same
  constructor <;> simpa only [p, b, q, k]

/-! ### The rewritings that leave the four values alone -/

@[simp] theorem Record.tension_completeStep (r : Record) : r.completeStep.tension = r.tension := by
  unfold Record.completeStep; split <;> rfl

@[simp] theorem Record.tension_noteOverload (r : Record) : r.noteOverload.tension = r.tension := by
  unfold Record.noteOverload; repeat' split
  all_goals rfl

@[simp] theorem Record.tension_movePush (r : Record) : r.movePush.tension = r.tension := by
  unfold Record.movePush; repeat' split
  all_goals rfl

@[simp] theorem Record.tension_voted (r : Record) (dir : Dir) (w : Nat) : (r.voted dir w).tension = r.tension := by
  unfold Record.voted; repeat' split
  all_goals rfl

@[simp] theorem Record.tension_countProving (r : Record) (inBand : Bool) :
    (r.countProving inBand).tension = r.tension := by
  unfold Record.countProving; repeat' split
  all_goals rfl

@[simp] theorem Record.tension_atLimit (r : Record) (dir : Dir) : (r.atLimit dir).tension = r.tension := by
  unfold Record.atLimit; repeat' split
  all_goals rfl

/-! ### Clamps -/

theorem clampNat_mem {low high : Nat} (nonempty : low ≤ high) (v : Nat) :
    low ≤ clampNat low high v ∧ clampNat low high v ≤ high :=
  ⟨le_max_left .., max_le nonempty (min_le_left ..)⟩

/-! ### An application (R85) -/

/-- R92 places the active P inside the range to which R85 clamps P′. -/
theorem Record.TensionOk.setpointRange (ok : r.TensionOk) :
    max 10 (r.k + 2) ≤ r.p ∧ r.p ≤ min 7000 (r.q - 2) := by
  obtain ⟨slackBelow, renderAbove, setpoint, band, -, -⟩ := ok
  omega

theorem Record.TensionOk.clampSetpoint_mem (ok : r.TensionOk) (p : Nat) :
    max 10 (r.k + 2) ≤ r.clampSetpoint p ∧ r.clampSetpoint p ≤ min 7000 (r.q - 2) :=
  clampNat_mem (ok.setpointRange.1.trans ok.setpointRange.2) p

/-- A setpoint in its range leaves room for a band of at least 1 under each of R85's limits. -/
theorem Record.bandRange_nonempty (above : max 10 (r.k + 2) ≤ p) (below : p ≤ min 7000 (r.q - 2)) :
    1 ≤ p / 4 ∧ 1 ≤ r.q - p - 1 ∧ 1 ≤ p - r.k - 1 := by
  omega

theorem Record.clampBand_mem (above : max 10 (r.k + 2) ≤ p) (below : p ≤ min 7000 (r.q - 2)) (b : Nat) :
    1 ≤ r.clampBand p b ∧ r.clampBand p b ≤ 500 ∧ r.clampBand p b ≤ p / 4 ∧ r.clampBand p b ≤ r.q - p - 1 ∧
      r.clampBand p b ≤ p - r.k - 1 := by
  obtain ⟨quarter, render, slack⟩ := Record.bandRange_nonempty above below
  have range : 1 ≤ min (min 500 (p / 4)) (min (r.q - p - 1) (p - r.k - 1)) :=
    le_min (le_min (by decide) quarter) (le_min render slack)
  have within := clampNat_mem range b
  simp only [le_min_iff] at within
  obtain ⟨low, ⟨cap, quarter'⟩, render', slack'⟩ := within
  exact ⟨low, cap, quarter', render', slack'⟩

theorem Record.TensionOk.applied (ok : r.TensionOk) (part : PendingPart) : (r.applied part).TensionOk := by
  obtain ⟨above, below⟩ := ok.clampSetpoint_mem part.p
  obtain ⟨low, cap, quarter, render, slack⟩ := Record.clampBand_mem above below part.b
  obtain ⟨aboveTen, aboveSlack⟩ := max_le_iff.mp above
  obtain ⟨belowMost, belowRender⟩ := le_min_iff.mp below
  refine ⟨?_, ?_, ⟨aboveTen, belowMost⟩, ⟨low, cap⟩, ?_, ok.render⟩ <;> dsimp only [Record.applied] <;> omega

/-- Whichever way the entry to TENDING from HAULING goes, it leaves the values as an application does or as they were (R38,
R88). -/
theorem Record.TensionOk.tensionReached (ok : r.TensionOk) : r.tensionReached.TensionOk := by
  unfold Record.tensionReached
  cases r.pending with
  | some part => exact (ok.applied part).of_tension rfl
  | none => exact ok.of_tension rfl

end Sys2Proof.Machine

/-! ### A new record (R90) -/

namespace Sys2Proof

open Machine

variable (a : AssignBody)

theorem AssignBody.clampedP_mem : 10 ≤ a.clampedP ∧ a.clampedP ≤ 7000 := clampNat_mem (by decide) _

theorem AssignBody.clampedB_mem : 1 ≤ a.clampedB ∧ a.clampedB ≤ min 500 (a.clampedP / 4) :=
  clampNat_mem (by have := a.clampedP_mem; omega) _

theorem AssignBody.clampedQ_mem : a.clampedP + a.clampedB + 1 ≤ a.clampedQ ∧ a.clampedQ ≤ 8000 :=
  clampNat_mem (by have := a.clampedP_mem; have := a.clampedB_mem; omega) _

theorem AssignBody.clampedK_le : a.clampedK ≤ a.clampedP - a.clampedB - 1 := min_le_left ..

/-- R90's clamps, each over the values clamped before it, meet R92. -/
theorem AssignBody.newRecord_tensionOk (place : AssignPlace) : (a.newRecord place).TensionOk := by
  have setpoint := a.clampedP_mem
  have band := a.clampedB_mem
  have render := a.clampedQ_mem
  have slack := a.clampedK_le
  constructor <;> dsimp only [AssignBody.newRecord] <;> omega

end Sys2Proof

namespace Sys2Proof.Machine

/-! ### Every rewriting of a record -/

/-- R92 is kept by every rewriting of a record: a new record and an application meet it by their clamps, and the others
leave the four values alone. -/
theorem Record.tensionOk_kept : Record.Kept Record.TensionOk where
  created a place _ := a.newRecord_tensionOk place
  tensionReached _ ok _ := ok.tensionReached
  applied _ part ok _ := ok.applied part
  appliedTending _ part ok _ := (ok.applied part).of_tension rfl
  armed _ ok _ := ok.of_tension rfl
  disarmed _ ok _ := ok.of_tension rfl
  paying _ _ ok _ _ := ok.of_tension rfl
  makingFast _ _ ok _ := ok.of_tension rfl
  hauling _ _ ok _ _ := ok.of_tension rfl
  releasing _ _ ok := ok.of_tension rfl
  rewinding _ _ ok _ _ := ok.of_tension rfl
  stowed _ ok _ := ok.of_tension rfl
  faulted _ _ ok := ok.of_tension rfl
  heldByRequest _ ok _ := ok.of_tension rfl
  resumed _ ok _ := ok.of_tension rfl
  cleared _ ok _ := ok.of_tension rfl
  deadline _ _ ok _ _ := ok.of_tension rfl
  frozen _ ok _ := ok.of_tension rfl
  thawed _ ok _ := ok.of_tension rfl
  measured _ _ _ ok _ _ := ok.of_tension rfl
  completed r ok := ok.of_tension r.tension_completeStep
  noteOverload r ok := ok.of_tension r.tension_noteOverload
  countSlack _ ok := ok.of_tension rfl
  movePush r ok := ok.of_tension r.tension_movePush
  voted r dir w ok _ := ok.of_tension (r.tension_voted dir w)
  countProving r inBand ok := ok.of_tension (r.tension_countProving inBand)
  deferred _ ok _ _ := ok.of_tension rfl
  takenUp _ ok := ok.of_tension rfl
  atLimit r dir ok := ok.of_tension (r.tension_atLimit dir)
  issued _ _ ok _ _ _ := ok.of_tension rfl
  pendingSet _ _ ok _ _ := ok.of_tension rfl
  proveStarted _ _ _ _ _ _ ok _ := ok.of_tension rfl
  proveReleased _ _ ok _ := ok.of_tension rfl
  proveStopped _ ok := ok.of_tension rfl
  notices _ _ ok := ok.of_tension rfl
  warmReset _ ok := ok.of_tension rfl
  pass _ _ ok := ok.of_tension rfl

end Sys2Proof.Machine

namespace Sys2Proof

open Machine

/-- Settles O54: every rewriting of a record keeps R92, so every step does, and R92 leaves nothing of P to clamp away. -/
theorem tensionBoundsAreKept : Obligations.TensionBoundsAreKept := by
  intro s t all next
  have kept : t.EachRecord Record.TensionOk := step_keeps_records Record.tensionOk_kept next all
  exact ⟨kept, fun h r at_h absent => (kept h r at_h).effective_eq_setpoint absent⟩

/-- Settles O29: the clamps are R85's formulas, and R92 puts the active P in the first range, whose every setpoint leaves
the second one non-empty. -/
theorem applicationClampsThePendingPart : Obligations.ApplicationClampsThePendingPart := by
  intro r part
  refine ⟨rfl, rfl, rfl, fun ok => ?_⟩
  obtain ⟨above, below⟩ := ok.clampSetpoint_mem part.p
  exact ⟨ok.setpointRange, ⟨above, below⟩, Record.bandRange_nonempty above below, Record.clampBand_mem above below part.b⟩

end Sys2Proof
end

section
/-! PROOF. R148 and R165: the state outputs and ATTN# follow the state, so each is said once of every state, and a reset or
an abort is then a matter of the fields that it leaves. -/

namespace Sys2Proof.Machine

variable {s : State}

/-! ### The state outputs (R148) -/

theorem State.berthState_of_latch (latched : s.emergencyLatch = true) : s.berthState = .emergency := by
  simp [State.berthState, latched]

theorem State.berthState_of_hold (unlatched : s.emergencyLatch = false) (held : s.berthHold = true) :
    s.berthState = .hold := by
  simp [State.berthState, unlatched, held]

theorem State.berthState_of_clear (unlatched : s.emergencyLatch = false) (clear : s.berthHold = false) :
    s.berthState = if s.configured then .running else .unconfigured := by
  simp [State.berthState, unlatched, clear]

/-- The levels of ST1 and ST0 are those of the berth state. -/
theorem State.outputs_of_berthState {b : BerthState} (shown : s.berthState = b) :
    s.st1 = (b = .emergency || b = .hold) ∧ s.st0 = (b = .emergency || b = .running) ∧ s.berthState = b := by
  subst shown; exact ⟨rfl, rfl, rfl⟩

/-- Byte 9 of the berth report follows eight line bytes and the byte of flags (section 11.7). -/
theorem State.berthReport_stateByte (s : State) : s.berthReport[9]? = some (byteOf s.berthState.code) := by
  simp [State.berthReport, List.getElem?_append]

theorem exec_readBerth (waits : s.port.Awaits) :
    exec .readBerth s = .next (s.answering s .readBerth .done s.berthReport) :=
  sendRequest_answered waits .readBerth [] rfl rfl

/-! ### The hold condition of unqualified lines (R138) -/

theorem State.mem_linesOf (s : State) (f : LineFunction) (l : Fin 8) : l ∈ s.linesOf f ↔ (s.lineConfig l).function = f := by
  simp [State.linesOf]

/-- A condition other than CONTACT is active while a line assigned it is active, and not without one. -/
theorem State.condition_iff {f : LineFunction} (other : f ≠ .contact) :
    s.condition f = true ↔ ∃ l, (s.lineConfig l).function = f ∧ s.lineActive l = true := by
  simp only [← s.mem_linesOf, ← List.any_eq_true, State.condition]
  split
  · next empty => simp [List.isEmpty_iff.mp empty, other]
  · rfl

/-- A HOLD line without a qualified level counts as active. -/
theorem State.lineActive_of_unqualified {l : Fin 8} (unqualified : (s.line l).qualified = none)
    (assigned : (s.lineConfig l).function = .hold) : s.lineActive l = true := by
  simp [State.lineActive, unqualified, assigned]

theorem State.holdCondition_of_unqualified (unqualified : ∀ l, (s.line l).qualified = none) :
    s.condition .hold = true ↔ ∃ l, (s.lineConfig l).function = .hold := by
  rw [State.condition_iff (by decide)]
  exact exists_congr fun l => and_iff_left_of_imp (State.lineActive_of_unqualified (unqualified l))

/-- What both resets leave: no latch, no software hold and no qualified line. The lines' functions and the configured flag
alone then make the berth state. -/
theorem State.berthState_of_unqualified (unlatched : s.emergencyLatch = false) (released : s.softwareHold = false)
    (unqualified : ∀ l, (s.line l).qualified = none) :
    s.berthState = if ∃ l, (s.lineConfig l).function = .hold then .hold
      else if s.configured then .running else .unconfigured := by
  have byLines : s.berthHold = true ↔ ∃ l, (s.lineConfig l).function = .hold := by
    rw [State.berthHold, released, Bool.or_false, State.holdCondition_of_unqualified unqualified]
  by_cases assigned : ∃ l, (s.lineConfig l).function = .hold
  · rw [if_pos assigned, State.berthState_of_hold unlatched (byLines.mpr assigned)]
  · rw [if_neg assigned, State.berthState_of_clear unlatched (Bool.eq_false_iff.mpr (mt byLines.mp assigned))]

/-! ### Attention (R164, R165) -/

theorem State.alertPending_iff (s : State) :
    s.alertPending = true ↔ ∃ h r, s.record? h = some r ∧ r.notices.anyAlert = true := by
  simp [State.alertPending, State.holds_iff]

theorem State.noticePending_iff (s : State) :
    s.noticePending = true ↔ ∃ h r, s.record? h = some r ∧ r.notices.anyNotice = true := by
  simp [State.noticePending, State.holds_iff]

theorem Port.replyReady_iff (p : Port) : p.replyReady = true ↔ ∃ bytes next, p.reply = .ready bytes next := by
  unfold Port.replyReady; cases p.reply <;> simp

theorem State.attention_iff (s : State) :
    s.attention = true ↔ s.emergencyLatch = true ∨ s.alertPending = true ∨
      (s.noticesEnable = true ∧ s.noticePending = true) ∨
      (s.port.replyReadyEnable = true ∧ s.port.replyReady = true) := by
  simp only [State.attention, Bool.or_eq_true, Bool.and_eq_true, or_assoc]

/-- While no reply is READY, three causes are left. -/
theorem State.attention_iff_of_notReady (notReady : s.port.replyReady = false) :
    s.attention = true ↔ s.emergencyLatch = true ∨ s.alertPending = true ∨
      (s.noticesEnable = true ∧ s.noticePending = true) := by
  simp [State.attention_iff, notReady]

/-- What both resets leave takes away all four causes: the last two go by their enables. -/
theorem State.attention_of_quiet (unlatched : s.emergencyLatch = false)
    (quiet : s.EachRecord fun r => r.notices.anyAlert = false) (noticesOff : s.noticesEnable = false)
    (readyOff : s.port.replyReadyEnable = false) : s.attention = false := by
  have noAlert : ¬ s.alertPending = true := by
    rw [State.alertPending_iff]
    rintro ⟨h, r, at_h, alert⟩
    exact absurd alert (by simp [quiet h r at_h])
  simp [State.attention, unlatched, noAlert, noticesOff, readyOff]

/-! ### What the resets and an abort leave -/

@[simp] theorem State.lineConfig_powerOnReset (s : State) (l : Fin 8) :
    s.powerOnReset.lineConfig l = { function := .generalIn, activeLow := false } := by
  simp [State.lineConfig, State.powerOnReset, State.reset, BerthConfig.default]

theorem State.line_powerOnReset (s : State) (l : Fin 8) : s.powerOnReset.line l = (s.line l).afterReset true := by
  simp only [State.line, State.powerOnReset, getElem_mapEntries]

@[simp] theorem State.record?_powerOnReset (s : State) (h : Fin 32) : s.powerOnReset.record? h = none := by
  simp [State.record?, State.powerOnReset, State.reset]

@[simp] theorem State.lineConfig_warmReset (s : State) (l : Fin 8) : s.warmReset.lineConfig l = s.lineConfig l := by
  simp only [State.lineConfig, State.warmReset]

@[simp] theorem State.configured_warmReset (s : State) : s.warmReset.configured = s.configured := by
  simp only [State.warmReset]

theorem State.line_warmReset (s : State) (l : Fin 8) :
    s.warmReset.line l = (s.line l).afterReset ((s.lineConfig l).function ≠ .generalOut) := by
  simp [State.line, State.warmReset]

theorem State.record?_warmReset (s : State) (h : Fin 32) :
    s.warmReset.record? h = (s.record? h).map Record.afterWarmReset := by
  simp only [State.record?, State.warmReset, getElem_mapEntries]

/-- The one kind that a warm reset raises, RESET HOLD, is notice-class (R21, R159). -/
theorem Record.anyAlert_afterWarmReset (r : Record) : r.afterWarmReset.notices.anyAlert = false := rfl

theorem State.berthState_powerOnReset (s : State) : s.powerOnReset.berthState = .unconfigured := by
  have unassigned : ¬ ∃ l, (s.powerOnReset.lineConfig l).function = .hold := by simp
  rw [State.berthState_of_unqualified rfl rfl fun l => by rw [State.line_powerOnReset]; rfl, if_neg unassigned]
  rfl

theorem State.berthState_warmReset (s : State) :
    s.warmReset.berthState = if ∃ l, (s.lineConfig l).function = .hold then .hold
      else if s.configured then .running else .unconfigured := by
  rw [State.berthState_of_unqualified rfl rfl fun l => by rw [State.line_warmReset]; rfl]
  simp only [State.lineConfig_warmReset, State.configured_warmReset]

theorem State.attention_powerOnReset (s : State) : s.powerOnReset.attention = false := by
  refine State.attention_of_quiet rfl (fun h r at_h => ?_) rfl rfl
  rw [State.record?_powerOnReset] at at_h
  cases at_h

theorem State.attention_warmReset (s : State) : s.warmReset.attention = false := by
  refine State.attention_of_quiet rfl (fun h r at_h => ?_) rfl rfl
  rw [State.record?_warmReset, Option.map_eq_some_iff] at at_h
  obtain ⟨old, -, rfl⟩ := at_h
  exact old.anyAlert_afterWarmReset

theorem exec_portAbort {v : Byte} (aborts : v.getLsbD 0 = true) :
    exec (.portAbort v) s = .next { s with port := s.port.abort } :=
  congrArg Host.Outcome.next (if_pos aborts)

end Sys2Proof.Machine

namespace Sys2Proof

open Machine

/-- Settles O8: the table of R148 and the causes of R165 hold of every state; the resets leave no latch, no qualified line,
no alert and no enable, and an abort leaves no reply. -/
theorem stateOutputsAndAttention : Obligations.StateOutputsAndAttention := by
  refine ⟨⟨fun s => ⟨?_, ?_, ?_, ?_⟩, fun s => ⟨_, rfl, s.berthState_powerOnReset⟩,
    fun s => ⟨_, rfl, s.berthState_warmReset⟩, fun s waits => ⟨exec_readBerth waits, s.berthReport_stateByte⟩⟩,
    fun s => ?_, fun s => ⟨_, rfl, s.attention_powerOnReset⟩, fun s => ⟨_, rfl, s.attention_warmReset⟩,
    fun s v aborts => ⟨_, exec_portAbort aborts, State.attention_iff_of_notReady rfl⟩⟩
  · exact fun latched => State.outputs_of_berthState (State.berthState_of_latch latched)
  · exact fun unlatched held => State.outputs_of_berthState (State.berthState_of_hold unlatched held)
  · intro unlatched clear configured
    exact State.outputs_of_berthState ((State.berthState_of_clear unlatched clear).trans (if_pos configured))
  · intro unlatched clear unconfigured
    exact State.outputs_of_berthState
      ((State.berthState_of_clear unlatched clear).trans (if_neg (Bool.eq_false_iff.mp unconfigured)))
  · rw [s.attention_iff, s.alertPending_iff, s.noticePending_iff, s.port.replyReady_iff]

end Sys2Proof
end

section
/-! PROOF. R169: the eight bits of the status byte, and the flag of overrun. Every bit but overrun follows the state outside
the flag; a byte that the mailbox takes leaves the flag alone, whether it is kept, completes a request or is refused. -/

namespace Sys2Proof.Machine

variable {s : State}

/-! ### The bits of the status byte -/

/-- A bit put behind a word is its bit 0, and moves the others up by one. -/
theorem getLsbD_append_ofBool {w : Nat} (x : BitVec w) (b : Bool) (i : Nat) :
    (x ++ BitVec.ofBool b).getLsbD i = if i = 0 then b else x.getLsbD (i - 1) := by
  rw [BitVec.getLsbD_append]
  cases i <;> simp

/-- A byte made of its bits shows each of them at its place. -/
theorem getLsbD_byteOfBits (b0 b1 b2 b3 b4 b5 b6 b7 : Bool) (i : Nat) :
    (byteOfBits b0 b1 b2 b3 b4 b5 b6 b7).getLsbD i = [b0, b1, b2, b3, b4, b5, b6, b7].getD i false := by
  -- the width as the appends of the bits make it, so that the lemma above finds them
  show BitVec.getLsbD (w := 1 + 1 + 1 + 1 + 1 + 1 + 1 + 1) _ i = _
  match i with
  | 0 | 1 | 2 | 3 | 4 | 5 | 6 | 7 =>
    simp only [byteOfBits, getLsbD_append_ofBool]
    simp
  | i + 8 => simp [BitVec.getLsbD_of_ge]

theorem NoticeSet.anyAlert_iff (n : NoticeSet) :
    n.anyAlert = true ↔ n.overload = true ∨ n.payLimit = true ∨ n.emergencyReleased = true ∨
      n.faultEntered.isSome = true := by
  simp only [NoticeSet.anyAlert, Bool.or_eq_true, or_assoc]

theorem NoticeSet.anyNotice_iff (n : NoticeSet) :
    n.anyNotice = true ↔ n.tendingReached = true ∨ n.stowed = true ∨ n.haulLimit = true ∨ n.resetHold = true ∨
      n.provingResult = true := by
  simp only [NoticeSet.anyNotice, Bool.or_eq_true, or_assoc]

/-- REQUEST OPEN in the words of R170: nothing executes and no reply is READY. -/
theorem Port.requestOpen_iff (p : Port) :
    p.requestOpen = true ↔ p.executing = none ∧ ∀ bytes next, p.reply ≠ .ready bytes next := by
  rw [Port.requestOpen, Bool.and_eq_true, Option.isNone_iff_eq_none, Bool.not_eq_true', ← Bool.not_eq_true,
    p.replyReady_iff, not_exists]
  simp only [not_exists, ne_eq]

theorem State.getLsbD_statusByte (s : State) (i : Nat) :
    s.statusByte.getLsbD i = [s.configured, s.port.requestOpen, s.port.replyReady, s.port.overrun, s.port.posted.isSome,
      s.noticePending, s.alertPending, s.emergencyLatch].getD i false :=
  getLsbD_byteOfBits ..

/-! ### What sets and keeps overrun -/

/-- A request has no effect on the port, so taking one leaves overrun alone. -/
theorem State.overrun_takeRequest (s : State) (code : Byte) (body : List Byte) :
    (s.takeRequest code body).port.overrun = s.port.overrun :=
  calc (s.takeRequest code body).port.overrun
    _ = (answerRequest code body s).1.port.overrun := rfl
    _ = s.port.overrun := by rw [answerRequest_port]

/-- Whatever the mailbox does with a byte that it takes, overrun stands. -/
theorem State.overrun_fillMailbox (s : State) (bytes : List Byte) : (s.fillMailbox bytes).port.overrun = s.port.overrun := by
  unfold State.fillMailbox
  split
  · next code length body =>
    split
    · rfl
    · split
      · exact s.overrun_takeRequest code body
      · rfl
  · rfl

theorem State.overrun_writeByte_closed (closed : s.port.requestOpen = false) (b : Byte) :
    (s.writeByte b).port.overrun = true := by
  simp [State.writeByte, closed]

theorem State.overrun_writeByte_open (opened : s.port.requestOpen = true) (b : Byte) :
    (s.writeByte b).port.overrun = s.port.overrun := by
  rw [State.writeByte, if_pos opened, State.overrun_fillMailbox]
  rfl

theorem Port.overrun_readReply_readOut {p : Port} (out : p.reply = .readOut) : p.readReply.overrun = true := by
  simp [Port.readReply, out]

theorem Port.overrun_readReply_kept {p : Port} (notOut : p.reply ≠ .readOut) : p.readReply.overrun = p.overrun := by
  unfold Port.readReply
  split
  · rfl
  · rfl
  · next out => exact absurd out notOut

/-- An abort leaves overrun alone (R174), and so does a write that is no abort. -/
theorem State.overrun_writeControl (s : State) (v : Byte) : (s.writeControl v).port.overrun = s.port.overrun := by
  unfold State.writeControl
  split <;> rfl

end Sys2Proof.Machine

namespace Sys2Proof

open Machine

/-- Settles O7: each bit of the byte read is the state's own condition at its place, and each access or reset does to overrun
what the lemmas above say. -/
theorem statusByteShowsEightConditions : Obligations.StatusByteShowsEightConditions := by
  intro s
  refine ⟨⟨_, rfl, rfl, rfl, s.getLsbD_statusByte 7, ?alert, ?notice, s.getLsbD_statusByte 4, s.getLsbD_statusByte 3,
      ?ready, ?isOpen, s.getLsbD_statusByte 0⟩,
    fun v closed => ⟨_, rfl, State.overrun_writeByte_closed closed v⟩,
    fun v opened => ⟨_, rfl, State.overrun_writeByte_open opened v⟩,
    fun out => ⟨_, rfl, Port.overrun_readReply_readOut out⟩,
    fun notOut => ⟨_, rfl, Port.overrun_readReply_kept notOut⟩,
    ⟨_, rfl, rfl⟩, ⟨_, rfl, rfl⟩, fun v => ⟨_, rfl, s.overrun_writeControl v⟩⟩
  case alert =>
    simp only [← NoticeSet.anyAlert_iff, ← s.alertPending_iff]
    exact Bool.eq_iff_iff.mp (s.getLsbD_statusByte 6)
  case notice =>
    simp only [← NoticeSet.anyNotice_iff, ← s.noticePending_iff]
    exact Bool.eq_iff_iff.mp (s.getLsbD_statusByte 5)
  case ready =>
    rw [← s.port.replyReady_iff]
    exact Bool.eq_iff_iff.mp (s.getLsbD_statusByte 2)
  case isOpen =>
    rw [← s.port.requestOpen_iff]
    exact Bool.eq_iff_iff.mp (s.getLsbD_statusByte 1)

end Sys2Proof
end

section
/-! PROOF. The ranges of a record's fields and the places of its optional parts (R3 to R5, R42, R52, R70, R72, R79, R149): each
rewriting of a record keeps them, so every step does. Most rewritings leave every number alone and move the record to another
state, so that only the places of its parts are left to see. -/

namespace Sys2Proof.Machine

variable {r r' : Record}

/-! ### Rewritings that leave the numbers alone -/

/-- Everything that R3, R4, R52 and R79 bound. -/
structure Record.SameNumbers (r r' : Record) : Prop where
  tension : r'.tension = r.tension
  lengths : (r'.lRun, r'.lMin, r'.lMax) = (r.lRun, r.lMin, r.lMax)
  measured : (r'.len, r'.m) = (r.len, r.m)
  pending : r'.pending = r.pending
  drift : (r'.c, r'.lean) = (r.c, r.lean)
  settings : (r'.t, r'.r, r'.stepSize) = (r.t, r.r, r.stepSize)
  counts : (r'.slackRun, r'.stepsPaid, r'.stepsHauled) = (r.slackRun, r.stepsPaid, r.stepsHauled)

theorem Record.LengthOk.of_lengths (ok : r.LengthOk) (same : (r'.lRun, r'.lMin, r'.lMax) = (r.lRun, r.lMin, r.lMax)) :
    r'.LengthOk := by
  obtain ⟨limits, runOut⟩ := ok
  simp only [Prod.mk.injEq] at same
  obtain ⟨lRun, lMin, lMax⟩ := same
  constructor <;> simpa only [lRun, lMin, lMax]

theorem Record.RegulationOk.of_same (ok : r.RegulationOk) (drift : (r'.c, r'.lean) = (r.c, r.lean))
    (settings : (r'.t, r'.r, r'.stepSize) = (r.t, r.r, r.stepSize))
    (counts : (r'.slackRun, r'.stepsPaid, r'.stepsHauled) = (r.slackRun, r.stepsPaid, r.stepsHauled)) :
    r'.RegulationOk := by
  obtain ⟨c, rearm, trip, size, slack, totals, noLean⟩ := ok
  simp only [Prod.mk.injEq] at drift settings counts
  obtain ⟨eC, eLean⟩ := drift
  obtain ⟨eT, eR, eS⟩ := settings
  obtain ⟨eSlack, ePaid, eHauled⟩ := counts
  constructor <;> simpa only [eC, eLean, eT, eR, eS, eSlack, ePaid, eHauled]

/-- A record whose numbers are those of a good one is good if its parts are. -/
theorem Record.FieldsOk.of_same (ok : r.FieldsOk) (same : r.SameNumbers r') (parts : r'.PartsOk)
    (proving : ∀ p, r'.proving = some p → p.Ok) : r'.FieldsOk := by
  obtain ⟨tension, lengths, measured, pending, drift, settings, counts⟩ := same
  simp only [Prod.mk.injEq] at measured
  exact ⟨ok.lengths.of_lengths lengths, ok.tension.of_tension tension, by rw [measured.1, measured.2]; exact ok.measured,
    fun part at_part => ok.pending part (pending ▸ at_part), ok.regulation.of_same drift settings counts, parts, proving⟩

/-! ### The places of the optional parts -/

/-- Outside TENDING, HELD and FAULT a record has neither a step in flight, a proving part, a deferred trip nor a fault
cause (R5, R70, R149). -/
theorem Record.PartsOk.bare (ok : r.PartsOk) (tending : r.state ≠ .tending) (held : r.state ≠ .held)
    (fault : r.state ≠ .fault) : r.step = none ∧ r.proving = none ∧ r.tripDeferred = false ∧ r.faultCause = none := by
  obtain ⟨cause, step, proving, deferred, -, -⟩ := ok
  refine ⟨?_, ?_, ?_, ?_⟩
  · cases e : r.step with
    | none => rfl
    | some x => exact ((step x e).1.elim tending held).elim
  · simpa [tending] using proving
  · simpa [tending] using deferred
  · simpa [fault] using cause

/-- The parts of a record that a transition has brought into a state other than TENDING, HELD and FAULT. -/
theorem Record.PartsOk.of_bare (step : r.step = none) (proving : r.proving = none) (deferred : r.tripDeferred = false)
    (cause : r.faultCause = none) (notFault : r.state ≠ .fault) (timed : r.deadline ≠ .absent ↔ r.state.timed = true)
    (frozen : ∀ n, r.deadline = .frozen n → r.state.moving = true) : r.PartsOk where
  cause := by simp [cause, notFault]
  step := by simp [step]
  proving := by simp [proving]
  deferred := by simp [deferred]
  deadline := timed
  frozen := frozen

theorem Deadline.held_iff (d : Deadline) : d.held ↔ d ≠ .absent := by
  cases d <;> simp [Deadline.held]

/-- A record comes from a state without parts into another one, with that one's deadline. -/
theorem Record.PartsOk.moved (ok : r.PartsOk) (bare : r.state ≠ .tending ∧ r.state ≠ .held ∧ r.state ≠ .fault)
    {state : LineState} {d : Deadline} (notFault : state ≠ .fault) (timed : d ≠ .absent ↔ state.timed = true)
    (frozen : ∀ n, d = .frozen n → state.moving = true) : Record.PartsOk { r with state := state, deadline := d } := by
  obtain ⟨step, proving, deferred, cause⟩ := ok.bare bare.1 bare.2.1 bare.2.2
  exact .of_bare step proving deferred cause notFault timed frozen

/-- The same with every number kept. -/
theorem Record.FieldsOk.moved (ok : r.FieldsOk) (bare : r.state ≠ .tending ∧ r.state ≠ .held ∧ r.state ≠ .fault)
    {state : LineState} {d : Deadline} (notFault : state ≠ .fault) (timed : d ≠ .absent ↔ state.timed = true)
    (frozen : ∀ n, d = .frozen n → state.moving = true) : Record.FieldsOk { r with state := state, deadline := d } :=
  ok.of_same ⟨rfl, rfl, rfl, rfl, rfl, rfl, rfl⟩ (ok.parts.moved bare notFault timed frozen) ok.proving

/-- A moving record's deadline may be any but an absent one. -/
theorem Record.FieldsOk.withDeadline (ok : r.FieldsOk) (moving : r.state.moving = true) {d : Deadline} (held : d ≠ .absent) :
    Record.FieldsOk { r with deadline := d } := by
  have timed : r.state.timed = true := by revert moving; cases r.state <;> decide
  refine ok.of_same ⟨rfl, rfl, rfl, rfl, rfl, rfl, rfl⟩ ?_ ok.proving
  exact { ok.parts with deadline := by simp [held, timed], frozen := fun _ _ => moving }

/-- A moving record holds a deadline. -/
theorem Record.FieldsOk.deadline_held (ok : r.FieldsOk) (moving : r.state.moving = true) : r.deadline ≠ .absent :=
  ok.parts.deadline.mpr (by revert moving; cases r.state <;> decide)

theorem Deadline.freeze_held {d : Deadline} (held : d ≠ .absent) : d.freeze ≠ .absent := by
  cases d <;> simp_all [Deadline.freeze]

theorem Deadline.thaw_held {d : Deadline} (held : d ≠ .absent) : d.thaw ≠ .absent := by
  cases d <;> simp_all [Deadline.thaw]

/-! ### Entries to states -/

theorem Record.FieldsOk.releasing (ok : r.FieldsOk) (n : Nat) : (r.releasing n).FieldsOk :=
  ok.of_same ⟨rfl, rfl, rfl, rfl, rfl, rfl, rfl⟩
    (.of_bare rfl rfl rfl rfl (fun e => nomatch e) (by simp [Record.releasing, LineState.timed])
      (by simp [Record.releasing])) (fun _ e => nomatch e)

theorem Record.FieldsOk.rewinding (ok : r.FieldsOk) {d : Deadline} (from' : r.state = .releasing ∨ r.state = .fault)
    (held : d ≠ .absent) : Record.FieldsOk { r with state := .rewinding, faultCause := none, deadline := d } := by
  have notTending : r.state ≠ .tending := by rcases from' with e | e <;> simp [e]
  have noStep : r.step = none := by
    cases e : r.step with
    | none => rfl
    | some x => rcases ok.parts.step x e with ⟨h | h, -⟩ <;> rcases from' with q | q <;> simp [q] at h
  have noProving : r.proving = none := by simpa [notTending] using ok.parts.proving
  have notDeferred : r.tripDeferred = false := by simpa [notTending] using ok.parts.deferred
  exact ok.of_same ⟨rfl, rfl, rfl, rfl, rfl, rfl, rfl⟩
    (.of_bare noStep noProving notDeferred rfl (fun e => nomatch e) (by simp [held, LineState.timed]) (fun _ _ => rfl))
    ok.proving

theorem Record.FieldsOk.faulted (ok : r.FieldsOk) (cause : FaultCause) : (r.faulted cause).FieldsOk := by
  refine ok.of_same ⟨rfl, rfl, rfl, rfl, rfl, rfl, rfl⟩ ?_ (fun _ e => nomatch e)
  constructor <;> simp [Record.faulted, Record.raise, LineState.timed]

theorem Record.FieldsOk.heldByRequest (ok : r.FieldsOk) (tending : r.state = .tending) : r.heldByRequest.FieldsOk := by
  have noCause : r.faultCause = none := by simpa [tending] using ok.parts.cause
  refine ok.of_same ⟨rfl, rfl, rfl, rfl, rfl, rfl, rfl⟩ ?_ (fun _ e => nomatch e)
  constructor <;> simp [Record.heldByRequest, LineState.timed, noCause]
  exact fun x e => (ok.parts.step x e).2

theorem Record.FieldsOk.cleared (ok : r.FieldsOk) (fault : r.state = .fault) :
    Record.FieldsOk { r with state := .held, faultCause := none, deadline := .absent } := by
  have noProving : r.proving = none := by simpa [fault] using ok.parts.proving
  have notDeferred : r.tripDeferred = false := by simpa [fault] using ok.parts.deferred
  refine ok.of_same ⟨rfl, rfl, rfl, rfl, rfl, rfl, rfl⟩ ?_ ok.proving
  constructor <;> simp [LineState.timed, noProving, notDeferred]
  exact fun x e => (ok.parts.step x e).2

/-- A drift count restarted agrees with a lean of NONE (R52, R62). -/
theorem Record.RegulationOk.restarted (ok : r.RegulationOk) : r.restarted.RegulationOk :=
  { ok with drift := Nat.zero_le _, noLean := fun _ => rfl }

theorem Record.FieldsOk.resumed (ok : r.FieldsOk) (held : r.state = .held) : r.resumed.FieldsOk := by
  have noCause : r.faultCause = none := by simpa [held] using ok.parts.cause
  have notDeferred : r.tripDeferred = false := by simpa [held] using ok.parts.deferred
  refine { ok with
    lengths := ok.lengths.of_lengths rfl
    tension := ok.tension.of_tension rfl
    regulation := { ok.regulation.restarted with slack := Nat.zero_le _ }, parts := ?_ }
  constructor <;> simp [Record.resumed, Record.restarted, LineState.timed, noCause, notDeferred]
  exact fun x e => (ok.parts.step x e).2

/-! ### Settings -/

theorem Record.FieldsOk.applied (ok : r.FieldsOk) (part : PendingPart) : (r.applied part).FieldsOk :=
  { ok with
    lengths := ok.lengths.of_lengths rfl
    tension := ok.tension.applied part
    pending := fun _ e => nomatch e
    regulation := ok.regulation.of_same rfl rfl rfl
    parts := { ok.parts with } }

theorem Record.FieldsOk.appliedTending (ok : r.FieldsOk) (part : PendingPart) :
    Record.FieldsOk { (r.applied part).restarted with tripDeferred := false } :=
  { ok.applied part with
    lengths := ok.lengths.of_lengths rfl
    tension := (ok.tension.applied part).of_tension rfl
    regulation := { ok.regulation.restarted with }
    parts := { ok.parts with deferred := fun e => nomatch e } }

/-- What HAULING leaves at tension reached: no part but a pending one, which is applied (R38, R88). -/
theorem Record.FieldsOk.tensionReached (ok : r.FieldsOk) (hauling : r.state = .hauling) : r.tensionReached.FieldsOk := by
  have reached : ∀ r : Record, r.FieldsOk → r.state = .hauling → Record.FieldsOk
      (Record.raise { r.restarted with state := .tending, deadline := .absent, slackRun := 0 } .tendingReached) := by
    intro r ok hauling
    obtain ⟨noStep, noProving, notDeferred, noCause⟩ := ok.parts.bare (by simp [hauling]) (by simp [hauling])
      (by simp [hauling])
    refine { ok with
      lengths := ok.lengths.of_lengths rfl
      tension := ok.tension.of_tension rfl
      regulation := { ok.regulation.restarted with slack := Nat.zero_le _ }, parts := ?_ }
    constructor <;> simp [Record.raise, Record.restarted, LineState.timed, noStep, notDeferred, noCause]
  unfold Record.tensionReached
  cases r.pending with
  | some part => exact reached _ (ok.applied part) hauling
  | none => exact reached r ok hauling

/-! ### Samples -/

theorem Record.FieldsOk.completed (ok : r.FieldsOk) : r.completeStep.FieldsOk := by
  have counted : ∀ n : Nat, countStep n ≤ 65535 := fun _ => min_le_left ..
  have noStep : ∀ {r' : Record}, r'.step = none → r'.state = r.state → r'.c = r.c → r'.t = r.t →
      r'.faultCause = r.faultCause → r'.proving = r.proving → r'.tripDeferred = r.tripDeferred →
      r'.deadline = r.deadline → r'.PartsOk := by
    intro r' step state c t cause proving deferred deadline
    constructor <;> simp only [step, state, c, t, cause, proving, deferred, deadline]
    · exact ok.parts.cause
    · exact fun _ e => nomatch e
    · exact ok.parts.proving
    · exact ok.parts.deferred
    · exact ok.parts.deadline
    · exact ok.parts.frozen
  unfold Record.completeStep
  split
  · exact { ok with
      lengths := ok.lengths.of_lengths rfl
      tension := ok.tension.of_tension rfl
      regulation := { ok.regulation with totals := ⟨counted _, ok.regulation.totals.2⟩ }
      parts := noStep rfl rfl rfl rfl rfl rfl rfl rfl }
  · exact { ok with
      lengths := ok.lengths.of_lengths rfl
      tension := ok.tension.of_tension rfl
      regulation := { ok.regulation with totals := ⟨ok.regulation.totals.1, counted _⟩ }
      parts := noStep rfl rfl rfl rfl rfl rfl rfl rfl }
  · exact ok

theorem Record.FieldsOk.noteOverload (ok : r.FieldsOk) : r.noteOverload.FieldsOk := by
  have same : ∀ overload notices, Record.FieldsOk { r with overload := overload, notices := notices } := fun _ _ =>
    ok.of_same ⟨rfl, rfl, rfl, rfl, rfl, rfl, rfl⟩ { ok.parts with } ok.proving
  unfold Record.noteOverload
  split
  · split
    · exact ok
    · exact same true _
  · split
    · exact same false _
    · exact ok

theorem Record.FieldsOk.countSlack (ok : r.FieldsOk) : r.countSlack.FieldsOk :=
  { ok with
    lengths := ok.lengths.of_lengths rfl
    tension := ok.tension.of_tension rfl
    regulation := { ok.regulation with
      slack := by unfold Record.countSlack; dsimp only; split <;> omega }
    parts := { ok.parts with } }

/-- A vote keeps the drift count between 0 and T; a trip deferred stays deferred only at T (R61, R70). -/
theorem Record.FieldsOk.voted (ok : r.FieldsOk) (dir : Dir) (w : Nat) : (r.voted dir w).FieldsOk := by
  have drift := ok.regulation.drift
  have trip := ok.regulation.trip
  have new : ∀ (c : Nat) (lean : Dir) (deferred pay haul : Bool), c ≤ r.t →
      (deferred = true → r.tripDeferred = true ∧ c = r.t) →
      Record.FieldsOk { r with
        c := c, lean := some lean, tripDeferred := deferred, payLimit := pay, haulLimit := haul } := by
    intro c lean deferred pay haul upTo full
    exact { ok with
      lengths := ok.lengths.of_lengths rfl
      tension := ok.tension.of_tension rfl
      regulation := { ok.regulation with drift := upTo, noLean := fun e => nomatch e }
      parts := { ok.parts with deferred := fun e => ⟨(ok.parts.deferred (full e).1).1, (full e).2⟩ } }
  unfold Record.voted
  split
  · next noLean =>
    refine new _ dir _ _ _ (min_le_left ..) fun deferred => ?_
    have := (ok.parts.deferred deferred).2
    have := ok.regulation.noLean noLean
    omega
  · next lean e =>
    split
    · have := new (min r.t (r.c + w)) lean r.tripDeferred r.payLimit r.haulLimit (min_le_left ..) fun deferred =>
        ⟨deferred, by have := (ok.parts.deferred deferred).2; omega⟩
      rwa [← e] at this
    · split
      · have := new (r.c - w) lean false r.payLimit r.haulLimit (by omega) (fun e => nomatch e)
        rwa [← e] at this
      · exact new _ dir false _ _ (min_le_left ..) (fun e => nomatch e)

/-- A record with another proving part, in TENDING. -/
theorem Record.FieldsOk.withProving (ok : r.FieldsOk) {p : ProvingPart} (tending : r.state = .tending) (good : p.Ok) :
    Record.FieldsOk { r with proving := some p } :=
  ok.of_same ⟨rfl, rfl, rfl, rfl, rfl, rfl, rfl⟩ { ok.parts with proving := fun _ => tending }
    (fun _ e => by cases e; exact good)

theorem Record.FieldsOk.withNotices (ok : r.FieldsOk) (n : NoticeSet) : Record.FieldsOk { r with notices := n } :=
  ok.of_same ⟨rfl, rfl, rfl, rfl, rfl, rfl, rfl⟩ { ok.parts with } ok.proving

theorem Record.FieldsOk.tending_of_proving (ok : r.FieldsOk) {p : ProvingPart} (at_p : r.proving = some p) :
    r.state = .tending := ok.parts.proving (by simp [at_p])

theorem ProvingPart.Ok.settling {p : ProvingPart} (ok : p.Ok) : p.settling.Ok :=
  { ok with
    counter := Nat.zero_le _
    offset := by simp [ProvingPart.settling]
    tally := by
      intro steps first e
      cases e
      exact ⟨by decide, by have := ok.settle.1; show 0 < p.settleCount; omega, fun _ e => nomatch e⟩ }

theorem clampInt_offset_range {low high v : Int} (below : -6998 ≤ low) (nonempty : low ≤ high) (above : high ≤ 7988) :
    -6998 ≤ clampInt low high v ∧ clampInt low high v ≤ 7988 := by
  have := clampInt_mem nonempty v
  omega

/-- R92 keeps the range to which a PUSH clamps the offset within the offset's bounds (R149, R152). -/
theorem Record.FieldsOk.movePush (ok : r.FieldsOk) : r.movePush.FieldsOk := by
  unfold Record.movePush
  split
  · next p at_p =>
    have good := ok.proving p at_p
    split
    · next phase =>
      refine ok.withProving (ok.tending_of_proving at_p) { good with offset := ?_, tally := ?_ }
      · obtain ⟨slack, render, setpoint, band, -, most⟩ := ok.tension
        exact clampInt_offset_range (by omega) (by omega) (by omega)
      · exact fun _ _ e => nomatch phase.symm.trans e
    · exact ok
  · exact ok

theorem ProvingPart.Ok.countIssued {p : ProvingPart} (ok : p.Ok) : p.countIssued.Ok := by
  unfold ProvingPart.countIssued
  split
  · next steps first phase =>
    obtain ⟨-, counter, inBand⟩ := ok.tally steps first phase
    exact { ok with tally := fun _ _ e => by cases e; exact ⟨min_le_left .., counter, inBand⟩ }
  · exact ok

theorem Record.FieldsOk.countProving (ok : r.FieldsOk) (inBand : Bool) : (r.countProving inBand).FieldsOk := by
  unfold Record.countProving
  split
  · exact ok
  · next p at_p =>
    have tending := ok.tending_of_proving at_p
    have good := ok.proving p at_p
    have push := good.push
    have settle := good.settle
    split
    · next phase =>
      split
      · split
        · exact ok.withProving tending { good with counter := Nat.zero_le _, tally := fun _ _ e => nomatch e }
        · exact ok.withProving tending good.settling
      · exact ok.withProving tending { good with
          counter := by show p.counter + 1 ≤ 65535; omega, tally := fun _ _ e => nomatch phase.symm.trans e }
    · next phase =>
      exact ok.withProving tending { good with
        counter := min_le_left .., tally := fun _ _ e => nomatch phase.symm.trans e }
    · next steps first phase =>
      obtain ⟨atMost, counter, firstRange⟩ := good.tally steps first phase
      have noted : ∀ n, (if (first.isNone && inBand) = true then some p.counter else first) = some n → n ≤ 999 := by
        intro n e
        split at e
        · cases e; omega
        · exact firstRange n e
      dsimp only
      split
      · have stored : ProvingPart.Ok { p with phase := .push, counter := 0, lastSteps := steps, lastInBand := _ } :=
          { good with counter := Nat.zero_le _, lastSteps := atMost, lastInBand := noted, tally := fun _ _ e => nomatch e }
        exact (ok.withProving tending stored).withNotices _
      · exact ok.withProving tending { good with
          counter := by show p.counter + 1 ≤ 65535; omega
          tally := fun _ _ e => by cases e; exact ⟨atMost, by show p.counter + 1 < p.settleCount; omega, noted⟩ }

/-! ### Trips -/

theorem Record.FieldsOk.withDeferral (ok : r.FieldsOk) {deferred : Bool}
    (full : deferred = true → r.state = .tending ∧ r.c = r.t) : Record.FieldsOk { r with tripDeferred := deferred } :=
  ok.of_same ⟨rfl, rfl, rfl, rfl, rfl, rfl, rfl⟩ { ok.parts with deferred := full } ok.proving

theorem Record.FieldsOk.atLimit (ok : r.FieldsOk) (dir : Dir) : (r.atLimit dir).FieldsOk := by
  have same : ∀ pay haul notices, Record.FieldsOk { r with payLimit := pay, haulLimit := haul, notices := notices } :=
    fun _ _ _ => ok.of_same ⟨rfl, rfl, rfl, rfl, rfl, rfl, rfl⟩ { ok.parts with } ok.proving
  cases dir <;> dsimp only [Record.atLimit]
  · split
    · exact ok
    · exact same true r.haulLimit _
  · split
    · exact ok
    · exact same r.payLimit true _

theorem Record.stepAmount_le (r : Record) (dir : Dir) : r.stepAmount dir ≤ r.stepSize := by
  cases dir <;> exact min_le_left ..

theorem Record.FieldsOk.issued (ok : r.FieldsOk) {dir : Dir} (tending : r.state = .tending) (lean : r.lean = some dir)
    (amount : r.stepAmount dir ≠ 0) : (r.issueStep dir (r.stepAmount dir)).FieldsOk := by
  have most := (r.stepAmount_le dir).trans ok.regulation.size.2
  refine { ok with
    lengths := ok.lengths.of_lengths rfl
    tension := ok.tension.of_tension rfl
    regulation := { ok.regulation with
      drift := ok.regulation.rearm.le, noLean := fun e => nomatch lean.symm.trans e }
    parts := { ok.parts with
      step := fun x e => by cases e; exact ⟨.inl tending, Nat.one_le_iff_ne_zero.mpr amount, most⟩
      proving := fun _ => tending
      deferred := fun e => nomatch e }
    proving := fun p e => ?_ }
  obtain ⟨old, at_old, rfl⟩ := Option.map_eq_some_iff.mp e
  exact (ok.proving old at_old).countIssued

/-! ### A new record, a new proving part and a warm reset -/

theorem newProving_ok (push : Byte) (settle : Half) (increment : Byte) (raises dwells : Bool) :
    (newProving push settle increment raises dwells).Ok where
  push := clampNat_mem (by decide) _
  settle := clampNat_mem (by decide) _
  increment := clampNat_mem (by decide) _
  counter := Nat.zero_le _
  offset := by simp [newProving]
  lastSteps := Nat.zero_le _
  lastInBand := fun _ e => nomatch e
  tally := fun _ _ e => nomatch e

/-- An ASSIGN that passes the RANGE checks has its length limits in range (R8). -/
theorem place_limits {a : AssignBody} {place : AssignPlace} (placed : a.place = some place) :
    a.lMin.toNat < a.lMax.toNat ∧ a.lMax.toNat ≤ 12000 := by
  unfold AssignBody.place at placed
  split at placed
  · split at placed
    · next limits => simpa using limits
    · cases placed
  · cases placed

/-- R11's values under the clamps of R90 and R91. -/
theorem newRecord_fieldsOk (a : AssignBody) {place : AssignPlace} (placed : a.place = some place) :
    (a.newRecord place).FieldsOk where
  lengths := by
    have limits := place_limits placed
    exact ⟨limits, clampNat_mem limits.1.le _⟩
  tension := a.newRecord_tensionOk place
  measured := ⟨Nat.zero_le _, Nat.zero_le _⟩
  pending := fun _ e => nomatch e
  regulation := by
    have trip : 2 ≤ a.clampedT ∧ a.clampedT ≤ 255 := clampNat_mem (by decide) _
    have rearm : a.clampedR ≤ a.clampedT - 1 := min_le_left ..
    exact ⟨Nat.zero_le _, by show a.clampedR < a.clampedT; omega, trip, clampNat_mem (by decide) _, Nat.zero_le _,
      ⟨Nat.zero_le _, Nat.zero_le _⟩, fun _ => rfl⟩
  parts := .of_bare rfl rfl rfl rfl (fun e => nomatch e) (by simp [AssignBody.newRecord, LineState.timed])
    (fun _ e => nomatch e)
  proving := fun _ e => nomatch e

theorem Record.FieldsOk.afterWarmReset (ok : r.FieldsOk) : r.afterWarmReset.FieldsOk := by
  refine { ok with
    lengths := ok.lengths.of_lengths rfl
    tension := ok.tension.of_tension rfl
    regulation := { ok.regulation with drift := Nat.zero_le _, slack := Nat.zero_le _, noLean := fun _ => rfl }
    proving := fun _ e => nomatch e
    parts := ?_ }
  have cause := ok.parts.cause
  constructor <;> simp [Record.afterWarmReset]
  · cases e : r.state <;> simp_all [LineState.afterWarmReset, LineState.faultedByReset]
  · cases e : r.state <;> simp [LineState.afterWarmReset, LineState.timed]

/-! ### Time -/

theorem Record.FieldsOk.pass (ok : r.FieldsOk) (elapsed : Nat) : (r.pass elapsed).FieldsOk := by
  refine ok.of_same ⟨rfl, rfl, rfl, rfl, rfl, rfl, rfl⟩ { ok.parts with deadline := ?_, frozen := ?_ } ok.proving
  · have timed := ok.parts.deadline
    dsimp only [Record.pass]
    cases e : r.deadline <;> simp_all [Deadline.pass]
  · intro n e
    refine ok.parts.frozen n ?_
    dsimp only [Record.pass] at e
    cases q : r.deadline <;> simp_all [Deadline.pass]

/-! ### Every rewriting of a record -/

/-- The ranges and places of a record's fields are kept by every rewriting of a record. -/
theorem Record.fieldsOk_kept : Record.Kept Record.FieldsOk where
  created a _ placed := newRecord_fieldsOk a placed
  armed _ ok e := ok.moved (by simp [e]) (fun e => nomatch e) (by simp [LineState.timed]) (fun _ e => nomatch e)
  disarmed _ ok e := ok.moved (by simp [e]) (fun e => nomatch e) (by simp [LineState.timed]) (fun _ e => nomatch e)
  paying _ d ok e held := ok.moved (by simp [e]) (fun e => nomatch e)
    (by simp [d.held_iff.mp held, LineState.timed]) (fun _ _ => rfl)
  makingFast _ _ ok e := ok.moved (by simp [e]) (fun e => nomatch e) (by simp [LineState.timed]) (fun _ e => nomatch e)
  hauling _ d ok e held := ok.moved (by simp [e]) (fun e => nomatch e)
    (by simp [d.held_iff.mp held, LineState.timed]) (fun _ _ => rfl)
  tensionReached _ ok hauling := ok.tensionReached hauling
  releasing _ n ok := ok.releasing n
  rewinding _ d ok from' held := ok.rewinding from' (d.held_iff.mp held)
  stowed _ ok e := (ok.moved (state := .stowed) (d := .absent) (by simp [e]) (fun e => nomatch e)
    (by simp [LineState.timed]) (fun _ e => nomatch e)).withNotices _
  faulted _ cause ok := ok.faulted cause
  heldByRequest _ ok tending := ok.heldByRequest tending
  resumed _ ok held := ok.resumed held
  cleared _ ok fault := ok.cleared fault
  deadline _ d ok moving held := ok.withDeadline moving (d.held_iff.mp held)
  frozen _ ok moving := ok.withDeadline moving (Deadline.freeze_held (ok.deadline_held moving))
  thawed _ ok moving := ok.withDeadline moving (Deadline.thaw_held (ok.deadline_held moving))
  measured _ _ _ ok m len := { ok with
    lengths := ok.lengths.of_lengths rfl
    tension := ok.tension.of_tension rfl
    measured := ⟨len, m⟩
    regulation := ok.regulation.of_same rfl rfl rfl
    parts := { ok.parts with } }
  completed _ ok := ok.completed
  noteOverload _ ok := ok.noteOverload
  countSlack _ ok := ok.countSlack
  movePush _ ok := ok.movePush
  voted _ dir w ok _ := ok.voted dir w
  countProving _ inBand ok := ok.countProving inBand
  deferred _ ok tending full := ok.withDeferral fun _ => ⟨tending, full⟩
  takenUp _ ok := ok.withDeferral fun e => nomatch e
  atLimit _ dir ok := ok.atLimit dir
  issued _ _ ok tending lean amount := ok.issued tending lean amount
  pendingSet _ _ ok p b := { ok with
    lengths := ok.lengths.of_lengths rfl
    tension := ok.tension.of_tension rfl
    pending := fun _ e => by cases e; exact ⟨p, b⟩
    regulation := ok.regulation.of_same rfl rfl rfl
    parts := { ok.parts with } }
  applied _ part ok _ := ok.applied part
  appliedTending _ part ok _ := ok.appliedTending part
  proveStarted _ _ _ _ _ _ ok tending := ok.withProving tending (newProving_ok ..)
  proveReleased _ p ok at_p := ok.withProving (ok.tending_of_proving at_p) (ok.proving p at_p).settling
  proveStopped _ ok := ok.of_same ⟨rfl, rfl, rfl, rfl, rfl, rfl, rfl⟩ { ok.parts with proving := fun e => nomatch e }
    (fun _ e => nomatch e)
  notices _ n ok := ok.withNotices n
  warmReset _ ok := ok.afterWarmReset
  pass elapsed _ ok := ok.pass elapsed

end Sys2Proof.Machine

namespace Sys2Proof

open Machine

/-- Settles O55: every rewriting of a record keeps the ranges and the places of its fields, so every step does. -/
theorem recordFieldsStayInRange : Obligations.RecordFieldsStayInRange :=
  fun _ _ all next => step_keeps_records Record.fieldsOk_kept next all

end Sys2Proof
end

section
/-! PROOF. The berth computer port (R168 to R176): no command reads or changes the queue, every step keeps the mailboxes, the
posted code and the executing request consistent, and what single bytes, whole messages, reads and urgent codes do. -/

namespace Sys2Proof.Machine

variable {s : State}

/-! ### Beside the queue -/

/-- The state with another queue of waiting commands. -/
def State.withQueue (s : State) (q : List Instr) : State := { s with pending := q }

/-- A meaning that neither reads nor changes the queue of waiting commands. -/
def QueueFree (f : State → State) : Prop := ∀ (s : State) q, f (s.withQueue q) = (f s).withQueue q

theorem QueueFree.pending {f : State → State} (free : QueueFree f) (s : State) : (f s).pending = s.pending := by
  have kept := congrArg State.pending (free s s.pending)
  exact kept

/-- A meaning that commutes with replacing port and queue leaves the port as it is. -/
theorem port_of_over {f : State → State} (commutes : ∀ (s : State) p q, f (s.over p q) = (f s).over p q) (s : State) :
    (f s).port = s.port := by
  have kept := congrArg State.port (commutes s s.port s.pending)
  exact kept

theorem QueueFree.of_over {f : State → State} (commutes : ∀ (s : State) p q, f (s.over p q) = (f s).over p q) :
    QueueFree f := by
  intro s q
  calc f (s.withQueue q)
    _ = (f s).over s.port q := commutes s s.port q
    _ = (f s).over (f s).port q := by rw [port_of_over commutes]

theorem QueueFree.comp {f g : State → State} (outer : QueueFree f) (inner : QueueFree g) : QueueFree fun s => f (g s) :=
  fun s q => (congrArg f (inner s q)).trans (outer (g s) q)

theorem QueueFree.foldl {α : Type} {f : State → α → State} (one : ∀ a, QueueFree fun s => f s a) (l : List α) :
    QueueFree fun s => l.foldl f s := by
  induction l with
  | nil => exact fun _ _ => rfl
  | cons a l ih => exact ih.comp (one a)

theorem takeRequest_queueFree (code : Byte) (body : List Byte) : QueueFree fun s => s.takeRequest code body := by
  intro s q
  have taken : answerRequest code body (s.withQueue q) = Taken.over (answerRequest code body s) s.port q :=
    answerRequest_over s s.port q code body
  have port := answerRequest_port s code body
  dsimp only [State.takeRequest]
  rw [taken]
  simp only [Taken.over, State.over, State.withQueue, port]

theorem fillMailbox_queueFree (bytes : List Byte) : QueueFree fun s => s.fillMailbox bytes := by
  intro s q
  dsimp only [State.fillMailbox]
  split
  · split
    · rfl
    · split
      · exact takeRequest_queueFree _ _ s q
      · rfl
  · rfl

theorem writeByte_queueFree (b : Byte) : QueueFree fun s => s.writeByte b := by
  intro s q
  have same : (s.withQueue q).port = s.port := rfl
  dsimp only [State.writeByte]
  rw [same]
  split
  · exact fillMailbox_queueFree _ { s with port := s.port.openForByte } q
  · rfl

theorem sendMessage_queueFree (code : Byte) (body : List Byte) : QueueFree fun s => s.sendMessage code body :=
  fun s q => QueueFree.foldl writeByte_queueFree _ s q

theorem takePosted_queueFree : QueueFree State.takePosted := by
  intro s q
  have same : (s.withQueue q).port = s.port := rfl
  unfold State.takePosted
  rw [same]
  split
  · next code _ =>
    exact QueueFree.of_over (f := fun s => s.takeUrgent code) (fun s p q => s.takeUrgent_over p q code) { s with port := { s.port with posted := none } } q
  · rfl

theorem postUrgent_queueFree (code : UrgentCode) : QueueFree fun s => s.postUrgent code := by
  intro s q
  have same : (s.withQueue q).port = s.port := rfl
  dsimp only [State.postUrgent]
  rw [same]
  split
  · exact takePosted_queueFree { s with port := { s.port with posted := some code } } q
  · rfl

theorem writeUrgent_queueFree (value : Byte) : QueueFree fun s => s.writeUrgent value := by
  intro s q
  dsimp only [State.writeUrgent]
  split
  · rfl
  · exact postUrgent_queueFree _ s q
  · exact postUrgent_queueFree _ s q
  · exact postUrgent_queueFree _ s q
  · rfl

theorem endRequest_queueFree : QueueFree State.endRequest := by
  intro s q
  have same : (s.withQueue q).port = s.port := rfl
  unfold State.endRequest
  rw [same]
  split
  · exact takePosted_queueFree { s with port := s.port.replied } q
  · rfl

/-- A request row sends its message. -/
theorem exec_of_message {i : Instr} {code : Byte} {body : List Byte} (carries : i.message = some (code, body)) (s : State) :
    exec i s = .next (s.sendMessage code body) := by
  cases i <;> cases carries <;> rfl

/-- Every command has a meaning, and the meaning is blind to the queue. -/
theorem exec_queueFree (c : Instr) : ∃ f : State → State, QueueFree f ∧ ∀ s, exec c s = .next (f s) := by
  cases c
  case requestByteWrite b => exact ⟨_, writeByte_queueFree b, fun _ => rfl⟩
  case requestEnd => exact ⟨_, endRequest_queueFree, fun _ => rfl⟩
  case replyByteRead => exact ⟨fun s => { s with port := s.port.readReply }, fun _ _ => rfl, fun _ => rfl⟩
  case statusRead => exact ⟨State.readStatus, fun _ _ => rfl, fun _ => rfl⟩
  case portAbort v =>
    exact ⟨fun s => s.writeControl v, fun s q => by dsimp only [State.writeControl]; split <;> rfl, fun _ => rfl⟩
  case enablesWrite v => exact ⟨fun s => s.writeEnables v, fun _ _ => rfl, fun _ => rfl⟩
  case holdAll => exact ⟨_, writeUrgent_queueFree 1, fun _ => rfl⟩
  case resumeAll => exact ⟨_, writeUrgent_queueFree 2, fun _ => rfl⟩
  case releaseAll => exact ⟨_, writeUrgent_queueFree 3, fun _ => rfl⟩
  case urgentWithdrawal => exact ⟨_, writeUrgent_queueFree 0, fun _ => rfl⟩
  case urgentCodeInvalid v => exact ⟨_, writeUrgent_queueFree v, fun _ => rfl⟩
  case powerOnReset => exact ⟨State.powerOnReset, fun _ _ => rfl, fun _ => rfl⟩
  case warmReset => exact ⟨State.warmReset, fun _ _ => rfl, fun _ => rfl⟩
  case slotStart => exact ⟨_, .of_over fun s p q => s.beginSlot_over p q, fun _ => rfl⟩
  case slotEnd inTime chars => exact ⟨_, .of_over fun s p q => s.endSlot_over p q inTime chars, fun _ => rfl⟩
  case deadlineExpiry x => exact ⟨_, .of_over fun s p q => s.expireDeadline_over p q x.handle x.elapsed, fun _ => rfl⟩
  case stageDeadlineExpiry x => exact ⟨_, .of_over fun s p q => s.expireStage_over p q x.group x.elapsed, fun _ => rfl⟩
  case lineQualified l => exact ⟨_, .of_over fun s p q => s.qualify_over p q l, fun _ => rfl⟩
  case berthLinePinChange l level => exact ⟨_, .of_over fun s p q => s.changePin_over p q l level, fun _ => rfl⟩
  all_goals exact ⟨_, sendMessage_queueFree _ _, exec_of_message rfl⟩

end Sys2Proof.Machine

namespace Sys2Proof

open Machine

/-- Settles O1: the step takes the queue apart and leaves the rest of it to `exec`. -/
theorem stepTakesFrontCommand : Obligations.StepTakesFrontCommand := fun _ _ => rfl

/-- Settles O2: every command has a meaning that is blind to the queue. -/
theorem everyCommandCompletesBesideTheQueue : Obligations.EveryCommandCompletesBesideTheQueue := by
  intro c s
  obtain ⟨f, free, meaning⟩ := exec_queueFree c
  exact ⟨f s, meaning s, free.pending s, fun q => (meaning _).trans (congrArg Host.Outcome.next (free s q))⟩

end Sys2Proof
end

section
/-! PROOF. The conditions of the port's mailboxes, posted code and executing request (R170 to R176): no other block touches the
port, every answer fits the reply mailbox, and each access keeps the conditions. -/

namespace Sys2Proof.Machine

variable {s : State}

/-! ### The length of an answer (section 11.7) -/

/-- An answer with a body of at most 61 bytes, which with the reply header makes 64. -/
def Taken.Fits (t : Taken) : Prop := t.2.body.length ≤ 61

theorem refuse_fits (s : State) (result : Result) : (refuse s result).Fits := Nat.zero_le _

theorem doneWith_fits {body : List Byte} (fits : body.length ≤ 61) (s : State) : (doneWith s body).Fits := fits

theorem doneCounts_fits (s : State) (acted skipped : Nat) : (doneCounts s acted skipped).Fits :=
  doneWith_fits (by simp) s

theorem withReference_fits {ref : Byte} {k : Fin 32 → Record → Taken} (one : ∀ h r, (k h r).Fits) :
    (withReference s ref k).Fits := by
  unfold withReference
  split
  · split
    · exact one _ _
    · exact refuse_fits _ _
  · exact refuse_fits _ _

theorem RecordAction.onTarget_fits (a : RecordAction) (whole : State → Option Result) (s : State) (kind value : Byte) :
    (a.onTarget whole s kind value).Fits := by
  unfold RecordAction.onTarget
  split
  · exact refuse_fits _ _
  · refine withReference_fits fun h r => ?_
    split
    · exact refuse_fits _ _
    · split
      · exact refuse_fits _ _
      · exact doneCounts_fits _ _ _
  · split
    · exact refuse_fits _ _
    · exact doneCounts_fits _ _ _
  · split
    · exact refuse_fits _ _
    · exact doneCounts_fits _ _ _

theorem handlesWith_length (s : State) (test : Record → Bool) : (s.handlesWith test).length ≤ 32 :=
  (List.length_filter_le _ _).trans (by simp)

@[simp] theorem halfBytes_length (v : Half) : (halfBytes v).length = 2 := rfl
@[simp] theorem halfOf_length (n : Nat) : (halfOf n).length = 2 := rfl
@[simp] theorem signedHalfOf_length (n : Int) : (signedHalfOf n).length = 2 := rfl
@[simp] theorem NoticeSet.bytes_length (n : NoticeSet) : n.bytes.length = 2 := rfl
@[simp] theorem Deadline.bytes_length (d : Deadline) : d.bytes.length = 3 := by
  cases d <;> simp [Deadline.bytes]
@[simp] theorem provingBytes_length (p : Option ProvingPart) : (provingBytes p).length = 8 := by
  cases p <;> simp [provingBytes]
@[simp] theorem lastReplyBytes_length (f : Option Frame) : (lastReplyBytes f).length = 5 := by
  cases f <;> simp [lastReplyBytes]
@[simp] theorem GroupEntry.bytes_length (e : GroupEntry) : e.bytes.length = 4 := by
  cases e <;> simp [GroupEntry.bytes]

/-- The snapshot has 57 bytes (section 11.7). -/
@[simp] theorem Record.snapshot_length (r : Record) (ref : Ref) : (r.snapshot ref).length = 57 := by
  unfold Record.snapshot
  simp only [List.length_append, List.length_cons, List.length_nil]
  simp only [halfOf_length, signedHalfOf_length, NoticeSet.bytes_length, Deadline.bytes_length, provingBytes_length]

@[simp] theorem Record.alertReport_length (r : Record) (ref : Ref) : (r.alertReport ref).length = 7 := by
  simp [Record.alertReport]

@[simp] theorem Record.noticeReport_length (r : Record) (ref : Ref) : (r.noticeReport ref).length = 60 := by
  simp [Record.noticeReport]

/-- The station report has 12 bytes (section 11.7). -/
@[simp] theorem StationEntry.report_length (e : StationEntry) (st : Fin 24) (left : Option DiagKind) :
    (e.report st left).length = 12 := by
  simp [StationEntry.report]

/-- The berth report has 42 bytes (section 11.7). -/
@[simp] theorem State.berthReport_length (s : State) : s.berthReport.length = 42 := by
  simp [State.berthReport]

theorem findReply_fits (s : State) (kind value : Byte) (test : Record → Bool) : (findReply s kind value test).Fits := by
  refine doneWith_fits ?_ s
  have := handlesWith_length s test
  simp
  omega

/-- Every request's answer fits the reply mailbox. -/
theorem runRequest_fits (code : RequestCode) (body : List Byte) (s : State) : (runRequest code body s).Fits := by
  cases code
  case configureBerth =>
    show (takeConfigureBerth _ s).Fits
    unfold takeConfigureBerth
    split
    · exact refuse_fits _ _
    · exact doneWith_fits (Nat.zero_le _) _
  case assign =>
    show (takeAssign _ s).Fits
    unfold takeAssign
    repeat' split
    all_goals first | exact refuse_fits _ _ | exact doneWith_fits (by simp) _
  case arm => exact RecordAction.onTarget_fits _ _ _ _ _
  case disarm => exact RecordAction.onTarget_fits _ _ _ _ _
  case set => exact RecordAction.onTarget_fits _ _ _ _ _
  case apply => exact RecordAction.onTarget_fits _ _ _ _ _
  case holdLine => exact RecordAction.onTarget_fits _ _ _ _ _
  case resume => exact RecordAction.onTarget_fits _ _ _ _ _
  case release =>
    show (takeRelease _ _ s).Fits
    unfold takeRelease releaseGroup releaseBerth
    split
    · exact refuse_fits _ _
    · refine withReference_fits fun h r => ?_
      repeat' split
      all_goals first | exact refuse_fits _ _ | exact doneCounts_fits _ _ _
    · repeat' split
      all_goals first | exact refuse_fits _ _ | exact doneCounts_fits _ _ _
    · split
      · exact refuse_fits _ _
      · exact doneCounts_fits _ _ _
  case clearFault =>
    refine withReference_fits fun h r => ?_
    dsimp only
    repeat' split
    all_goals exact Nat.zero_le _
  case retire =>
    show (takeRetire _ _ s).Fits
    unfold takeRetire
    split
    · exact refuse_fits _ _
    · exact RecordAction.onTarget_fits _ _ _ _ _
  case abandon => exact withReference_fits fun h r => doneCounts_fits _ _ _
  case readRecord =>
    show (takeReadRecord _ s).Fits
    unfold takeReadRecord
    refine withReference_fits fun h r => doneWith_fits ?_ s
    simp only [Record.snapshot_length]
    decide
  case find =>
    show (takeFind _ _ s).Fits
    unfold takeFind
    repeat' split
    all_goals first | exact refuse_fits _ _ | exact findReply_fits _ _ _ _
  case nextNotice =>
    show (takeNextNotice s).Fits
    unfold takeNextNotice
    split
    · exact doneWith_fits (by simp only [Record.alertReport_length]; decide) _
    · split
      · exact doneWith_fits (by simp only [Record.noticeReport_length]; decide) _
      · exact doneWith_fits (by simp) _
  case ackEmergency =>
    show (takeAckEmergency s).Fits
    unfold takeAckEmergency
    split
    · exact refuse_fits _ _
    · exact doneWith_fits (Nat.zero_le _) _
  case stationQuery =>
    show (takeStationQuery _ _ s).Fits
    unfold takeStationQuery
    repeat' split
    all_goals first | exact refuse_fits _ _ | exact doneWith_fits (by simp) _
  case zero =>
    show (takeZero _ s).Fits
    unfold takeZero
    split
    · exact refuse_fits _ _
    · dsimp only
      repeat' split
      all_goals exact Nat.zero_le _
  case proveStart =>
    refine withReference_fits fun h r => ?_
    repeat' split
    all_goals exact Nat.zero_le _
  case proveRelease =>
    refine withReference_fits fun h r => ?_
    repeat' split
    all_goals exact Nat.zero_le _
  case proveStop =>
    refine withReference_fits fun h r => ?_
    split
    · exact doneWith_fits (Nat.zero_le _) _
    · exact refuse_fits _ _
  case readBerth => exact doneWith_fits (by simp) _
  case setOutputs => exact doneWith_fits (Nat.zero_le _) _

theorem answerRequest_fits (code : Byte) (body : List Byte) (s : State) : (answerRequest code body s).Fits := by
  unfold answerRequest
  split
  · exact runRequest_fits _ _ s
  · exact refuse_fits _ _

/-! ### Bytes written -/

/-- An open port executes nothing and so has no code posted. -/
theorem Port.Ok.idle {p : Port} (ok : p.Ok) (opened : p.requestOpen = true) : p.executing = none ∧ p.posted = none := by
  have none' := (p.requestOpen_iff.mp opened).1
  refine ⟨none', ?_⟩
  have posted := ok.posted
  rw [none'] at posted
  simpa using posted

/-- The port after a byte that the mailbox keeps. -/
theorem Port.Ok.collecting {p : Port} (ok : p.Ok) (idle : p.executing = none ∧ p.posted = none) {bytes : List Byte}
    (short : bytes.length < 32)
    (incomplete : ∀ code length body, bytes = code :: length :: body → length.toNat ≤ 30 ∧ body.length < length.toNat) :
    Port.Ok { p with reply := .empty, mailbox := bytes } where
  executing := by simp [idle.1]
  posted := by simp [idle.2]
  mailbox := short
  incomplete := incomplete
  opened := fun _ => rfl
  ready := fun _ _ e => nomatch e
  answer := ok.answer

/-- The port that has taken a request executes it, with its mailboxes empty. -/
theorem Port.Ok.executes {p : Port} (empty : p.reply = .empty) (code : Byte)
    {answer : Answer} (fits : answer.body.length ≤ 61) : (p.executes code answer).Ok where
  executing := fun _ => ⟨rfl, empty⟩
  posted := fun _ => rfl
  mailbox := by simp [Port.executes]
  incomplete := fun _ _ _ e => nomatch e
  opened := fun e => absurd rfl e
  ready := fun _ _ e => nomatch empty.symm.trans e
  answer := fun _ e => by cases e; exact fits

/-- The port with a reply made READY and the mailbox empty. -/
theorem Port.Ok.ready' {p : Port} (idle : p.executing = none) (posted : p.posted = none) (empty : p.mailbox = [])
    {code : Byte} {answer : Answer} (fits : answer.body.length ≤ 61) :
    Port.Ok { p with reply := .ready (replyBytes code answer) 0 } where
  executing := by simp [idle]
  posted := by simp [posted]
  mailbox := by simp [empty]
  incomplete := by simp [empty]
  opened := fun e => absurd empty e
  ready := fun bytes next e => by
    cases e
    have : (replyBytes code answer).length = answer.body.length + 3 := rfl
    omega
  answer := by simp [idle]

theorem writeByte_keepsPort (b : Byte) (ok : s.port.Ok) : (s.writeByte b).port.Ok := by
  unfold State.writeByte
  split
  · next opened =>
    have idle := ok.idle opened
    unfold State.fillMailbox
    split
    · next code length body split =>
      split
      · exact Port.Ok.ready' (p := { s.port.openForByte with mailbox := [] }) idle.1 idle.2 rfl (Nat.zero_le _)
      · split
        · exact Port.Ok.executes (p := (answerRequest code body { s with port := s.port.openForByte }).1.port)
            (by rw [answerRequest_port]; rfl) code
            (answerRequest_fits code body _)
        · next long short =>
          have some : body.length < length.toNat := by
            match e : s.port.mailbox with
            | [] => rw [e] at split; cases split
            | [_] => rw [e] at split; cases split; simp at short ⊢; omega
            | code' :: length' :: body' =>
              rw [e] at split
              cases split
              have := (ok.incomplete _ _ _ e).2
              simp at short ⊢
              omega
          refine ok.collecting idle (bytes := s.port.mailbox ++ [b]) ?_ ?_
          · rw [split]; simp; omega
          · rw [split]
            intro _ _ _ e
            cases e
            exact ⟨by omega, some⟩
    · next no =>
      refine ok.collecting idle (bytes := s.port.mailbox ++ [b]) ?_ fun code length body e => absurd e (no code length body)
      match e : s.port.mailbox ++ [b] with
      | [] => simp
      | [_] => simp
      | code :: length :: body => exact absurd e (no code length body)
  · exact { ok with }

theorem sendMessage_keepsPort (code : Byte) (body : List Byte) (ok : s.port.Ok) : (s.sendMessage code body).port.Ok :=
  foldl_keeps (fun s : State => s.port.Ok) _ (fun _ b ok => writeByte_keepsPort b ok) _ s ok

/-! ### Replies, aborts and urgent codes -/

/-- The port with no code posted, whatever it executes. -/
theorem Port.Ok.withdrawn {p : Port} (ok : p.Ok) : Port.Ok { p with posted := none } :=
  { ok with posted := fun e => nomatch e }

theorem Port.Ok.replied {p : Port} (ok : p.Ok) (executing : p.executing.isSome = true) :
    Port.Ok { p.replied with posted := none } := by
  obtain ⟨e, at_e⟩ := Option.isSome_iff_exists.mp executing
  have empty := ok.executing executing
  unfold Port.replied
  rw [at_e]
  dsimp only
  split
  · exact { ok with
      executing := fun e => nomatch e
      posted := fun e => nomatch e
      answer := fun _ e => nomatch e }
  · exact Port.Ok.ready' (p := { p with executing := none, posted := none }) rfl rfl empty.1 (ok.answer e at_e)

theorem Port.Ok.readReply {p : Port} (ok : p.Ok) : p.readReply.Ok := by
  unfold Port.readReply
  split
  · exact { ok with }
  · next bytes next at_ready =>
    have idle : p.executing.isSome ≠ true := fun e => nomatch at_ready.symm.trans (ok.executing e).2
    have noBytes : p.mailbox = [] := by
      by_contra some
      exact nomatch at_ready.symm.trans (ok.opened some)
    exact { ok with
      executing := fun e => absurd e idle
      opened := fun e => absurd noBytes e
      ready := fun bytes' next' e => by
        dsimp only at e
        split at e
        · next more => cases e; exact ⟨more, (ok.ready _ _ at_ready).2⟩
        · cases e }
  · exact { ok with }

theorem Port.Ok.abort {p : Port} (ok : p.Ok) : p.abort.Ok where
  executing := fun _ => ⟨rfl, rfl⟩
  posted := fun e => nomatch e
  mailbox := by simp [Port.abort]
  incomplete := fun _ _ _ e => nomatch e
  opened := fun _ => rfl
  ready := fun _ _ e => nomatch e
  answer := fun e at_e => by
    obtain ⟨old, at_old, rfl⟩ := Option.map_eq_some_iff.mp at_e
    exact ok.answer old at_old

theorem takePosted_port (s : State) : s.takePosted.port = { s.port with posted := none } := by
  unfold State.takePosted
  split
  · next code _ =>
    exact port_of_over (f := fun s => s.takeUrgent code) (fun s p q => s.takeUrgent_over p q code) _
  · next none => rw [← none]

theorem postUrgent_keepsPort (code : UrgentCode) (ok : s.port.Ok) : (s.postUrgent code).port.Ok := by
  unfold State.postUrgent
  dsimp only
  split
  · rw [takePosted_port]; exact ok.withdrawn
  · next executing =>
    exact { ok with posted := fun _ => by simpa [Option.isSome_iff_ne_none] using executing }

theorem writeUrgent_keepsPort (value : Byte) (ok : s.port.Ok) : (s.writeUrgent value).port.Ok := by
  unfold State.writeUrgent
  split
  · exact ok.withdrawn
  · exact postUrgent_keepsPort _ ok
  · exact postUrgent_keepsPort _ ok
  · exact postUrgent_keepsPort _ ok
  · exact ok

theorem endRequest_keepsPort (ok : s.port.Ok) : s.endRequest.port.Ok := by
  unfold State.endRequest
  split
  · next executing =>
    rw [takePosted_port]
    exact ok.replied executing
  · exact ok

theorem Port.reset_ok (data : Byte) : Port.Ok { Port.reset with dataOut := data } where
  executing := fun e => nomatch e
  posted := fun e => nomatch e
  mailbox := by simp [Port.reset]
  incomplete := fun _ _ _ e => nomatch e
  opened := fun _ => rfl
  ready := fun _ _ e => nomatch e
  answer := fun _ e => nomatch e

/-! ### Every command -/

theorem exec_keepsPort (c : Instr) {t : State} (next : exec c s = .next t) (ok : s.port.Ok) : t.port.Ok := by
  have untouched : ∀ f : State → State, (∀ (s : State) p q, f (s.over p q) = (f s).over p q) → (f s).port.Ok :=
    fun f commutes => by rw [port_of_over commutes]; exact ok
  cases c
  case requestByteWrite b => cases next; exact writeByte_keepsPort b ok
  case requestEnd => cases next; exact endRequest_keepsPort ok
  case replyByteRead => cases next; exact ok.readReply
  case statusRead => cases next; exact { ok with }
  case portAbort v =>
    cases next
    unfold State.writeControl
    split
    · exact ok.abort
    · exact ok
  case enablesWrite => cases next; exact { ok with }
  case holdAll => cases next; exact writeUrgent_keepsPort _ ok
  case resumeAll => cases next; exact writeUrgent_keepsPort _ ok
  case releaseAll => cases next; exact writeUrgent_keepsPort _ ok
  case urgentWithdrawal => cases next; exact writeUrgent_keepsPort _ ok
  case urgentCodeInvalid => cases next; exact writeUrgent_keepsPort _ ok
  case powerOnReset => cases next; exact Port.reset_ok _
  case warmReset =>
    obtain rfl : s.warmReset = t := Host.Outcome.next.inj next
    exact Port.reset_ok s.port.dataOut
  case slotStart => cases next; exact untouched _ fun s p q => s.beginSlot_over p q
  case slotEnd inTime chars =>
    cases next; exact untouched (fun s => s.endSlot inTime chars) fun s p q => s.endSlot_over p q inTime chars
  case deadlineExpiry x =>
    cases next; exact untouched (fun s => s.expireDeadline _ _) fun s p q => s.expireDeadline_over p q _ _
  case stageDeadlineExpiry x =>
    cases next; exact untouched (fun s => s.expireStage _ _) fun s p q => s.expireStage_over p q _ _
  case lineQualified l => cases next; exact untouched (fun s => s.qualify l) fun s p q => s.qualify_over p q l
  case berthLinePinChange l level =>
    cases next; exact untouched (fun s => s.changePin l level) fun s p q => s.changePin_over p q l level
  all_goals (cases next; exact sendMessage_keepsPort _ _ ok)

end Sys2Proof.Machine

namespace Sys2Proof

open Machine

/-- Settles O60: every access of the port keeps its conditions, and no other command and no passing of time touches it. -/
theorem portMailboxesStayConsistent : Obligations.PortMailboxesStayConsistent := by
  intro s t ok next
  unfold step at next
  split at next
  · obtain rfl : s.tick = t := Host.Outcome.next.inj next
    simpa [State.tick] using ok
  · exact exec_keepsPort _ next ok

end Sys2Proof
end

section
/-! PROOF. What the accesses of the port do one by one (R168 to R176): bytes written to location 0, a request row as its bytes,
the reply made and read, aborts, enables and urgent codes. -/

namespace Sys2Proof.Machine

variable {s : State}

/-! ### Bytes written to location 0 -/

theorem exec_requestByteWrite (s : State) (b : Byte) : exec (.requestByteWrite b) s = .next (s.writeByte b) := rfl

theorem State.writeByte_closed (closed : s.port.requestOpen = false) (b : Byte) :
    s.writeByte b = { s with port := { s.port with overrun := true } } := by
  simp [State.writeByte, closed]

/-- A byte written into an open mailbox joins the bytes that stand there. -/
theorem State.writeByte_open (idle : s.port.executing = none) (notReady : s.port.replyReady = false) (b : Byte) :
    s.writeByte b = (s.holding s.port.mailbox).fillMailbox (s.port.mailbox ++ [b]) := by
  have opened : s.port.requestOpen = true := by simp [Port.requestOpen, idle, notReady]
  rw [State.writeByte, if_pos opened]
  rfl

/-- The mailbox keeps the first byte of a message (R170). -/
theorem State.fillMailbox_first (bytes : List Byte) (code : Byte) : (s.holding bytes).fillMailbox [code] = s.holding [code] :=
  rfl

/-- The mailbox keeps what is short of a whole message (R170). -/
theorem State.fillMailbox_kept (bytes : List Byte) (code : Byte) {length : Byte} {body : List Byte} (fits : length.toNat ≤ 30)
    (short : body.length < length.toNat) :
    (s.holding bytes).fillMailbox (code :: length :: body) = s.holding (code :: length :: body) := by
  have notLong : ¬ 30 < length.toNat := by omega
  have notFull : body.length ≠ length.toNat := by omega
  simp only [State.fillMailbox, notLong, if_false, notFull]
  rfl

/-- A length byte above 30 is refused at once (R170). -/
theorem State.fillMailbox_long (bytes : List Byte) (code : Byte) {length : Byte} (body : List Byte) (long : 30 < length.toNat) :
    (s.holding bytes).fillMailbox (code :: length :: body) =
      { s with port := { s.port with mailbox := [], reply := .ready [code, 1, 0] 0 } } := by
  simp only [State.fillMailbox, long, if_true]
  rfl

/-- The last byte of a message whose header names no request completes it, and it is answered with BAD REQUEST (R170, R171;
log 4). -/
theorem State.fillMailbox_refused (bytes : List Byte) {code length : Byte} {body : List Byte} (fits : length.toNat ≤ 30)
    (full : body.length = length.toNat) (unnamed : headerRequest code length.toNat = none) :
    (s.holding bytes).fillMailbox (code :: length :: body) = { s with port := { s.port with
      mailbox := [], reply := .empty,
      executing := some { code := code, answer := { result := .badRequest, body := [] }, aborted := false } } } := by
  have notLong : ¬ 30 < length.toNat := by omega
  simp only [State.fillMailbox, notLong, if_false, full, if_true]
  rw [State.takeRequest_holding]
  rw [← full] at unnamed
  simp only [answerRequest, unnamed]
  rfl

/-! ### Request codes (section 11.6) -/

theorem RequestCode.byte_of_ofByte {b : Byte} {c : RequestCode} (named : RequestCode.ofByte b = some c) : c.byte = b := by
  apply BitVec.eq_of_toNat_eq
  unfold RequestCode.ofByte at named
  split at named
  case h_24 => cases named
  all_goals next code => cases named; rw [code]; rfl

theorem RequestCode.ofByte_byte (c : RequestCode) : RequestCode.ofByte c.byte = some c := by cases c <;> rfl

/-- A header names the request of its code, if the length is that request's. -/
theorem headerRequest_eq_some {code : Byte} {length : Nat} {c : RequestCode} :
    headerRequest code length = some c ↔ c.byte = code ∧ c.bodyLength = length := by
  rw [headerRequest, Option.filter_eq_some_iff, decide_eq_true_iff]
  refine and_congr_left' ⟨RequestCode.byte_of_ofByte, fun e => ?_⟩
  rw [← e]; exact RequestCode.ofByte_byte c

theorem headerRequest_eq_none {code : Byte} {length : Nat} :
    headerRequest code length = none ↔ ∀ c : RequestCode, c.byte = code → c.bodyLength ≠ length := by
  rw [Option.eq_none_iff_forall_ne_some]
  exact forall_congr' fun c => by rw [Ne, headerRequest_eq_some, not_and]

/-! ### A request row as its bytes (log 3) -/

theorem writeBytes_eq (bytes : List Byte) (s : State) : writeBytes bytes s = .next (bytes.foldl State.writeByte s) := by
  induction bytes generalizing s with
  | nil => rfl
  | cons b rest ih => exact ih (s.writeByte b)

/-- A well-formed row's message fits the mailbox. -/
theorem message_length {i : Instr} {code : Byte} {body : List Byte} (carries : i.message = some (code, body))
    (formed : i.wellFormed = true) : body.length ≤ 30 := by
  cases i
  case badRequestHeader =>
    cases carries
    simp only [Instr.wellFormed, Bool.and_eq_true, decide_eq_true_eq] at formed
    exact formed.1
  all_goals (cases carries; try simp [BerthBody.bytes, AssignBody.bytes])

/-- The first bytes of a fitting message, short of the last, stand in the mailbox once written. -/
theorem State.foldl_writeByte_part (waits : s.port.Awaits) (code : Byte) (body : List Byte) (fits : body.length ≤ 30)
    (n : Nat) (part : n + 1 < (messageBytes code body).length) :
    ((messageBytes code body).take (n + 1)).foldl State.writeByte s = s.holding ((messageBytes code body).take (n + 1)) := by
  have length : (BitVec.ofNat 8 body.length).toNat = body.length := by simp; omega
  have total : (messageBytes code body).length = body.length + 2 := rfl
  induction n with
  | zero =>
    show s.writeByte code = _
    rw [State.writeByte_open waits.notExecuting waits.notReady, waits.mailbox]
    rfl
  | succ n ih =>
    have inside : n + 1 < (messageBytes code body).length := by omega
    rw [List.take_succ_eq_append_getElem inside, List.foldl_append, ih inside, List.foldl_cons, List.foldl_nil,
      State.writeByte_holding waits.notExecuting, ← List.take_succ_eq_append_getElem inside]
    exact State.fillMailbox_kept _ code (length := BitVec.ofNat 8 body.length) (body := body.take n) (by omega)
      (by rw [List.length_take]; omega)

theorem messageBytes_ne_nil (code : Byte) (body : List Byte) : 0 < (messageBytes code body).length := Nat.succ_pos _

/-- With a part of its message in the mailbox a row writes the rest. -/
theorem State.sendMessage_rest {t : State} {code : Byte} {body : List Byte} {n : Nat} (part : n < (messageBytes code body).length)
    (holds : t.port.mailbox = (messageBytes code body).take n) :
    t.sendMessage code body = ((messageBytes code body).drop n).foldl State.writeByte t := by
  have rest : remainingBytes (messageBytes code body) t.port.mailbox = (messageBytes code body).drop n := by
    have length : ((messageBytes code body).take n).length = n := by rw [List.length_take]; omega
    have begins : ((messageBytes code body).take n).isPrefixOf (messageBytes code body) = true :=
      List.isPrefixOf_iff_prefix.mpr (List.take_prefix ..)
    simp only [remainingBytes, holds, begins, length, part, decide_true, Bool.and_self, if_true]
  rw [State.sendMessage, rest]

/-! ### The end of a request and urgent codes -/

theorem exec_urgent (code : UrgentCode) (s : State) : exec code.instr s = .next (s.postUrgent code) := by
  cases code <;> rfl

theorem State.postUrgent_busy (executing : s.port.executing ≠ none) (code : UrgentCode) :
    s.postUrgent code = { s with port := { s.port with posted := some code } } := by
  have busy : ¬ s.port.executing.isNone = true := by simpa using executing
  rw [State.postUrgent, if_neg busy]

theorem State.postUrgent_idle (idle : s.port.executing = none) (code : UrgentCode) :
    s.postUrgent code = State.takeUrgent { s with port := { s.port with posted := none } } code := by
  rw [State.postUrgent, if_pos (by simp [idle])]
  rfl

theorem State.takePosted_some {code : UrgentCode} (posted : s.port.posted = some code) :
    s.takePosted = State.takeUrgent { s with port := { s.port with posted := none } } code := by
  rw [State.takePosted, posted]

theorem State.takePosted_none (posted : s.port.posted = none) : s.takePosted = s := by
  rw [State.takePosted, posted]

theorem exec_requestEnd (s : State) : exec .requestEnd s = .next s.endRequest := rfl

theorem State.endRequest_idle (idle : s.port.executing = none) : s.endRequest = s := by
  rw [State.endRequest, if_neg (by simp [idle])]

theorem State.endRequest_busy {e : Executing} (executing : s.port.executing = some e) :
    s.endRequest = State.takePosted { s with port := s.port.replied } := by
  rw [State.endRequest, if_pos (by simp [executing])]

theorem Port.replied_posted (p : Port) : p.replied.posted = p.posted := by
  unfold Port.replied; repeat' split
  all_goals rfl

theorem Port.replied_executing (p : Port) : p.replied.executing = none := by
  unfold Port.replied
  split
  · split <;> rfl
  · next none => exact none

/-- The reply is made of the port without a posted code as of the port with one. -/
theorem Port.replied_withdrawn (p : Port) : Port.replied { p with posted := none } = { p.replied with posted := none } := by
  unfold Port.replied
  dsimp only
  split
  · split <;> rfl
  · rfl

end Sys2Proof.Machine

namespace Sys2Proof

open Machine

/-- Settles O4: the bytes of a message short of the last stand in the mailbox, and the row writes the rest. -/
theorem requestRowIsItsBytes : Obligations.RequestRowIsItsBytes := by
  intro i code body carries formed s waits
  have fits := message_length carries formed
  have whole : s.sendMessage code body = (messageBytes code body).foldl State.writeByte s :=
    State.sendMessage_rest (messageBytes_ne_nil code body) waits.mailbox
  refine ⟨by rw [writeBytes_eq, exec_of_message carries, whole], fun n part t written => ?_⟩
  rw [writeBytes_eq] at written
  obtain rfl := Host.Outcome.next.inj written
  have holds : (((messageBytes code body).take n).foldl State.writeByte s).port.mailbox = (messageBytes code body).take n := by
    cases n with
    | zero => exact waits.mailbox
    | succ n => rw [State.foldl_writeByte_part waits code body fits n part]; rfl
  rw [exec_of_message carries, exec_of_message carries, State.sendMessage_rest part holds, whole, ← List.foldl_append,
    List.take_append_drop]

/-- Settles O5: what the mailbox does with a byte goes by the bytes that stand in it and by the length byte. -/
theorem requestMailboxTakesItsBytes : Obligations.RequestMailboxTakesItsBytes := by
  refine ⟨fun s v => ⟨fun closed => ?_, fun idle notReady => ?_⟩, fun s code body waits fits unnamed => ?_⟩
  · have shut : s.port.requestOpen = false := by
      rcases closed with e | e
      · simp [Port.requestOpen, e]
      · simp [Port.requestOpen, e]
    rw [exec_requestByteWrite, State.writeByte_closed shut]
  · rw [exec_requestByteWrite, State.writeByte_open idle notReady]
    refine ⟨fun e => ?_, fun code e long => ?_, fun code e some fits => ?_, fun code length body e fits short => ?_,
      fun code e zero unnamed => ?_, fun code length body e fits full unnamed => ?_⟩
    · rw [e]; rfl
    · rw [e]
      exact congrArg _ (State.fillMailbox_long _ code [] long)
    · rw [e]
      exact congrArg _ (State.fillMailbox_kept _ code (body := []) fits some)
    · rw [e]
      exact congrArg _ (State.fillMailbox_kept _ code (body := body ++ [v]) fits (by simpa using short))
    · subst zero
      rw [e]
      exact congrArg _ (State.fillMailbox_refused _ (length := 0) (body := []) (by decide) rfl unnamed)
    · rw [e]
      exact congrArg _ (State.fillMailbox_refused _ (body := body ++ [v]) fits (by simpa using full) unnamed)
  · have refused := headerRequest_eq_none.mpr unnamed
    exact congrArg Host.Outcome.next (State.sendMessage_refused waits code body fits refused)

/-- Settles O6: the reply is made of the executing request, a posted code is then taken as if it were written, and each read
goes by the reply mailbox. -/
theorem repliesAreMadeAndReadOnce : Obligations.RepliesAreMadeAndReadOnce := by
  refine ⟨fun s => ⟨fun idle => ?_, fun e executing => ⟨fun posted kept => ?_, fun posted aborted => ?_, fun code posted => ?_⟩⟩,
    fun s => ⟨fun empty => ?_, fun out => ?_, fun bytes next inside ready => ?_⟩⟩
  · rw [exec_requestEnd, State.endRequest_idle idle]
  · rw [exec_requestEnd, State.endRequest_busy executing,
      State.takePosted_none (by rw [← posted]; exact s.port.replied_posted)]
    simp only [Port.replied, executing, kept, Bool.false_eq_true, if_false]
    rfl
  · rw [exec_requestEnd, State.endRequest_busy executing,
      State.takePosted_none (by rw [← posted]; exact s.port.replied_posted)]
    simp only [Port.replied, executing, aborted, if_true]
  · refine ⟨{ s with port := { s.port.replied with posted := none } }, ?_, ?_⟩
    · have ends := State.endRequest_busy (s := { s with port := { s.port with posted := none } }) executing
      have left : Port.replied { s.port with posted := none } = { s.port.replied with posted := none } :=
        s.port.replied_withdrawn
      rw [left] at ends
      exact congrArg Host.Outcome.next (ends.trans (State.takePosted_none rfl))
    · rw [exec_urgent, exec_requestEnd, State.endRequest_busy executing,
        State.takePosted_some (s.port.replied_posted.trans posted), State.postUrgent_idle s.port.replied_executing]
  · show Host.Outcome.next { s with port := s.port.readReply } = _
    simp only [Port.readReply, empty]
  · show Host.Outcome.next { s with port := s.port.readReply } = _
    simp only [Port.readReply, out]
  · show Host.Outcome.next { s with port := s.port.readReply } = _
    have last : next + 1 < bytes.length ↔ ¬ next + 1 = bytes.length := by omega
    simp only [Port.readReply, ready, List.getD_eq_getElem _ _ inside, last, ite_not]

/-- Settles O9: each write goes by its value, and an urgent code by whether a request executes. -/
theorem controlEnableAndUrgentWrites : Obligations.ControlEnableAndUrgentWrites := by
  refine ⟨fun s v => ⟨fun aborts => exec_portAbort aborts, fun plain => ?_, rfl⟩,
    fun s => ⟨fun code executing => ?_, rfl, fun v above => ?_, fun e => ?_, fun e => ?_, fun e => ?_, fun e => ?_⟩⟩
  · show Host.Outcome.next (s.writeControl v) = _
    rw [State.writeControl, plain, if_neg Bool.false_ne_true]
  · rw [exec_urgent, State.postUrgent_busy executing]
  · show Host.Outcome.next (s.writeUrgent v) = _
    unfold State.writeUrgent
    split
    case h_5 => rfl
    all_goals (next value => omega)
  all_goals (rw [State.location2, e]; rfl)

end Sys2Proof
end

section
/-! PROOF. References, request codes and request bodies read back as written (sections 11.6 and 11.7). -/

namespace Sys2Proof.Machine

/-! ### Bytes of a two-byte value -/

/-- The two bytes of a value, put together again. -/
theorem append_halfBytes (v : Half) : v.extractLsb' 8 8 ++ v.extractLsb' 0 8 = v := by
  refine BitVec.eq_of_getLsbD_eq (w := 16) fun i inside => ?_
  rw [BitVec.getLsbD_append, BitVec.getLsbD_extractLsb', BitVec.getLsbD_extractLsb']
  split
  · next low => simp [low]
  · next high =>
    have upper : i - 8 < 8 := by omega
    have place : 8 + (i - 8) = i := by omega
    simp [upper, place]

/-- A byte of a list of bytes at the place after a part of that list. -/
theorem byteAt_append (before after : List Byte) (i : Nat) :
    byteAt (before ++ after) (before.length + i) = byteAt after i := by
  simp [byteAt, List.getElem?_append_right]

theorem halfAt_halfBytes (before : List Byte) (v : Half) (after : List Byte) :
    halfAt (before ++ halfBytes v ++ after) before.length = v := by
  have low := byteAt_append before (halfBytes v ++ after) 0
  have high := byteAt_append before (halfBytes v ++ after) 1
  rw [halfAt, List.append_assoc]
  rw [Nat.add_zero] at low
  rw [low, high]
  exact append_halfBytes v

/-- A two-byte value at a given offset, whatever stands before and after it. -/
theorem halfAt_of_split {body before after : List Byte} {v : Half} {i : Nat} (split : body = before ++ halfBytes v ++ after)
    (place : before.length = i) : halfAt body i = v := by
  rw [split, ← place, halfAt_halfBytes]

/-! ### References (section 11.7) -/

theorem Ref.ofByte_byte (ref : Ref) : Ref.ofByte ref.byte = ref := by
  obtain ⟨handle, generation⟩ := ref
  have low : (BitVec.ofFin (w := 3) generation ++ BitVec.ofFin (w := 5) handle).extractLsb' 0 5 = BitVec.ofFin handle :=
    BitVec.extractLsb'_append_eq_right
  have high : (BitVec.ofFin (w := 3) generation ++ BitVec.ofFin (w := 5) handle).extractLsb' 5 3 = BitVec.ofFin generation :=
    BitVec.extractLsb'_append_eq_left
  simp only [Ref.ofByte, Ref.byte]
  congr 1
  · exact congrArg BitVec.toFin low
  · exact congrArg BitVec.toFin high

theorem Ref.byte_ofByte (b : Byte) : (Ref.ofByte b).byte = b := by
  refine BitVec.eq_of_getLsbD_eq (w := 8) fun i inside => ?_
  show (b.extractLsb' 5 3 ++ b.extractLsb' 0 5).getLsbD i = b.getLsbD i
  rw [BitVec.getLsbD_append, BitVec.getLsbD_extractLsb', BitVec.getLsbD_extractLsb']
  split
  · next low => simp [low]
  · next high =>
    have upper : i - 5 < 3 := by omega
    have place : 5 + (i - 5) = i := by omega
    simp [upper, place]

/-! ### Messages -/

/-- A row's message has a good header, unless the row is that of a refused header. -/
theorem headerRequest_message {i : Instr} {code : Byte} {body : List Byte} (carries : i.message = some (code, body))
    (formed : i.wellFormed = true) :
    headerRequest code body.length = none ↔ ∃ c b, i = .badRequestHeader c b := by
  cases i
  case badRequestHeader =>
    cases carries
    simp only [Instr.wellFormed, Bool.and_eq_true, Option.isNone_iff_eq_none] at formed
    simp [formed.2]
  all_goals cases carries
  all_goals simp [headerRequest, RequestCode.ofByte, Option.filter, RequestCode.bodyLength, BerthBody.bytes,
    AssignBody.bytes]

theorem append_mapBytes (map : BitVec 24) :
    map.extractLsb' 16 8 ++ map.extractLsb' 8 8 ++ map.extractLsb' 0 8 = map := by
  refine BitVec.eq_of_getLsbD_eq (w := 24) fun i inside => ?_
  simp only [BitVec.getLsbD_append, BitVec.getLsbD_extractLsb']
  split
  · next low => simp [low]
  · split
    · next mid =>
      have place : 8 + (i - 8) = i := by omega
      simp [mid, place]
    · next high =>
      have upper : i - 8 - 8 < 8 := by omega
      have place : 16 + (i - 8 - 8) = i := by omega
      simp [upper, place]

end Sys2Proof.Machine

namespace Sys2Proof

open Machine

theorem BerthBody.bytes_length (body : BerthBody) : body.bytes.length = 23 := by simp [BerthBody.bytes]

theorem AssignBody.bytes_length (body : AssignBody) : body.bytes.length = 21 := rfl

theorem AssignBody.ofBytes_bytes (body : AssignBody) : AssignBody.ofBytes body.bytes = body := by
  obtain ⟨station, callTag, group, role, lRun, lMin, lMax, p, b, q, k, t, r, s⟩ := body
  simp [AssignBody.ofBytes, AssignBody.bytes, halfAt, byteAt, halfBytes, append_halfBytes]

/-- The line bytes stand at offset 15 of the body (R146). -/
theorem BerthBody.byteAt_line (body : BerthBody) (i : Nat) (inside : i < 8) : byteAt body.bytes (15 + i) = body.lines[i] := by
  have behind := byteAt_append (halfBytes body.pay ++ halfBytes body.fast ++ halfBytes body.haul ++ halfBytes body.clear ++
    halfBytes body.stall ++ halfBytes body.stage ++
    [body.map.extractLsb' 0 8, body.map.extractLsb' 8 8, body.map.extractLsb' 16 8]) body.lines.toList i
  refine behind.trans ?_
  simp [byteAt, inside]

theorem BerthBody.lines_ofBytes (body : BerthBody) : (BerthBody.ofBytes body.bytes).lines = body.lines := by
  have line := body.byteAt_line
  generalize body.bytes = bytes at line ⊢
  refine Vector.ext fun i inside => ?_
  rw [← line i inside]
  match i with
  | 0 | 1 | 2 | 3 | 4 | 5 | 6 | 7 => rfl

theorem BerthBody.map_ofBytes (body : BerthBody) : (BerthBody.ofBytes body.bytes).map = body.map := by
  have bytes : (BerthBody.ofBytes body.bytes).map =
      body.map.extractLsb' 16 8 ++ body.map.extractLsb' 8 8 ++ body.map.extractLsb' 0 8 := by
    simp [BerthBody.ofBytes, byteAt, BerthBody.bytes, halfBytes]
  rw [bytes, append_mapBytes]

/-- The six timeouts, of two bytes each, stand before the map. -/
theorem BerthBody.timeouts_ofBytes (body : BerthBody) :
    (BerthBody.ofBytes body.bytes).pay = body.pay ∧ (BerthBody.ofBytes body.bytes).fast = body.fast ∧
      (BerthBody.ofBytes body.bytes).haul = body.haul ∧ (BerthBody.ofBytes body.bytes).clear = body.clear ∧
      (BerthBody.ofBytes body.bytes).stall = body.stall ∧ (BerthBody.ofBytes body.bytes).stage = body.stage := by
  simp [BerthBody.ofBytes, halfAt, byteAt, BerthBody.bytes, halfBytes, append_halfBytes]

theorem BerthBody.ofBytes_bytes (body : BerthBody) : BerthBody.ofBytes body.bytes = body := by
  obtain ⟨pay, fast, haul, clear, stall, stage⟩ := body.timeouts_ofBytes
  have map := body.map_ofBytes
  have lines := body.lines_ofBytes
  generalize BerthBody.ofBytes body.bytes = back at pay fast haul clear stall stage map lines ⊢
  cases back
  cases body
  simp_all

/-- Settles O48: each operand's bytes are those of its place, and each place gives the operand back. -/
theorem requestOperandsRoundTrip : Obligations.RequestOperandsRoundTrip :=
  ⟨Ref.ofByte_byte, Ref.byte_ofByte, RequestCode.ofByte_byte, fun _ _ named => RequestCode.byte_of_ofByte named,
    fun _ _ _ carries formed => headerRequest_message carries formed,
    fun body => ⟨body.ofBytes_bytes, body.bytes_length⟩, fun body => ⟨body.ofBytes_bytes, body.bytes_length⟩,
    fun v before after => halfAt_halfBytes before v after⟩

end Sys2Proof
end

section
/-! PROOF. The characters and frames of the station link (R114, R119, R120, R130): a character is good by the parity of its
bits, so one damaged bit makes it bad; a frame is its bytes, each in a good character. -/

namespace Sys2Proof.Machine

/-! ### Parity -/

/-- The parity of a count is the exclusive or of what is counted. -/
theorem countP_parity (p : Nat → Bool) (l : List Nat) :
    decide (l.countP p % 2 = 1) = l.foldr (fun i odd => p i ^^ odd) false := by
  induction l with
  | nil => rfl
  | cons i l ih =>
    have next (n : Nat) : decide ((n + 1) % 2 = 1) = !decide (n % 2 = 1) := by
      rw [← decide_not]; exact decide_eq_decide.mpr (by omega)
    rw [List.foldr_cons, ← ih, List.countP_cons]
    cases p i
    · rw [Bool.false_xor]; rfl
    · rw [if_pos rfl, next, Bool.true_xor]

/-- The exclusive or of the data bits, the type bit and the parity bit of a character. -/
def LinkChar.odd (c : LinkChar) : Bool := (List.range 10).foldr (fun i odd => c.getLsbD (i + 1) ^^ odd) false

/-- R114's judgement by the bits: even parity over data, type and parity bit, stop bit 1 and type bit 0. -/
theorem LinkChar.good_eq (c : LinkChar) : LinkChar.good c = (!LinkChar.odd c && c.getLsbD 11 && !c.getLsbD 9) := by
  have parity : decide ((LinkChar.ones c + (c.getLsbD 10).toNat) % 2 = 0) = !LinkChar.odd c := by
    have counted := countP_parity (fun i => c.getLsbD (i + 1)) (List.range 10)
    have all : (List.range 10).countP (fun i => c.getLsbD (i + 1)) = LinkChar.ones c + (c.getLsbD 10).toNat := by
      rw [show List.range 10 = List.range 9 ++ [9] from rfl, List.countP_append]
      refine congrArg (LinkChar.ones c + ·) ?_
      rw [List.countP_cons, List.countP_nil, Nat.zero_add]
      cases c.getLsbD 10 <;> rfl
    rw [LinkChar.odd, ← counted, all]
    cases h : decide ((LinkChar.ones c + (c.getLsbD 10).toNat) % 2 = 1) <;> simp at h ⊢ <;> omega
  rw [LinkChar.good, parity]

/-- One damaged bit is one bit turned over. -/
theorem LinkChar.getLsbD_damaged (c : LinkChar) (i j : Nat) (inside : j < 12) :
    (c ^^^ BitVec.ofNat 12 (2 ^ i)).getLsbD j = (c.getLsbD j ^^ decide (i = j)) := by
  rw [BitVec.getLsbD_xor, BitVec.getLsbD_ofNat]
  simp [inside, Nat.testBit_two_pow]

/-- A damaged data, type or parity bit turns the parity over; the start and the stop bit are not counted. -/
theorem LinkChar.odd_damaged (c : LinkChar) (i : Nat) (counted : 1 ≤ i ∧ i ≤ 10) :
    LinkChar.odd (c ^^^ BitVec.ofNat 12 (2 ^ i)) = !LinkChar.odd c := by
  have bits (j : Nat) (inside : j < 12) := LinkChar.getLsbD_damaged c i j inside
  obtain ⟨low, high⟩ := counted
  simp only [LinkChar.odd, show List.range 10 = [0, 1, 2, 3, 4, 5, 6, 7, 8, 9] from rfl, List.foldr_cons, List.foldr_nil,
    Nat.reduceAdd, bits _ (show 1 < 12 by decide), bits _ (show 2 < 12 by decide), bits _ (show 3 < 12 by decide),
    bits _ (show 4 < 12 by decide), bits _ (show 5 < 12 by decide), bits _ (show 6 < 12 by decide),
    bits _ (show 7 < 12 by decide), bits _ (show 8 < 12 by decide), bits _ (show 9 < 12 by decide),
    bits _ (show 10 < 12 by decide)]
  interval_cases i <;> simp

/-! ### The characters of a data byte -/

/-- The start bit, the data and the type bit of a character, below its parity bit. -/
def charBits (isAddress : Bool) (d : Byte) : BitVec 10 := BitVec.ofBool isAddress ++ d ++ 0#1

theorem linkChar_eq (isAddress : Bool) (d : Byte) : linkChar isAddress d = 1#1 ++ BitVec.ofBool
    (decide ((List.range 9).countP (fun i => (charBits isAddress d).getLsbD (i + 1)) % 2 = 1)) ++ charBits isAddress d := rfl

theorem linkChar_low (isAddress : Bool) (d : Byte) {i : Nat} (low : i < 10) :
    (linkChar isAddress d).getLsbD i = (charBits isAddress d).getLsbD i := by
  rw [linkChar_eq, BitVec.getLsbD_append, if_pos low]

theorem linkChar_stop (isAddress : Bool) (d : Byte) : (linkChar isAddress d).getLsbD 11 = true := by
  rw [linkChar_eq, BitVec.getLsbD_append, BitVec.getLsbD_append]
  simp

theorem linkChar_parity (isAddress : Bool) (d : Byte) : (linkChar isAddress d).getLsbD 10 =
    decide ((List.range 9).countP (fun i => (charBits isAddress d).getLsbD (i + 1)) % 2 = 1) := by
  rw [linkChar_eq, BitVec.getLsbD_append, BitVec.getLsbD_append]
  simp

theorem linkChar_type (isAddress : Bool) (d : Byte) : (linkChar isAddress d).getLsbD 9 = isAddress := by
  rw [linkChar_low _ _ (by decide), charBits, BitVec.getLsbD_append, BitVec.getLsbD_append]
  simp

theorem linkChar_data (isAddress : Bool) (d : Byte) : LinkChar.data (linkChar isAddress d) = d := by
  refine BitVec.eq_of_getLsbD_eq fun i inside => ?_
  rw [LinkChar.data, BitVec.getLsbD_extractLsb', linkChar_low _ _ (by omega), charBits, BitVec.getLsbD_append,
    BitVec.getLsbD_append]
  have behind : ¬ 1 + i < 1 := by omega
  have place : 1 + i - 1 = i := by omega
  simp [inside, behind, place]

/-- The parity bit makes the parity of the whole character even (R114). -/
theorem linkChar_even (isAddress : Bool) (d : Byte) : LinkChar.odd (linkChar isAddress d) = false := by
  have same : (List.range 9).foldr (fun i odd => (linkChar isAddress d).getLsbD (i + 1) ^^ odd) false =
      (linkChar isAddress d).getLsbD 10 := by
    rw [linkChar_parity, countP_parity]
    refine List.foldr_ext _ _ _ fun i mem odd => ?_
    rw [linkChar_low _ _ (by have := List.mem_range.mp mem; omega)]
  have ends (c : LinkChar) : LinkChar.odd c =
      ((List.range 9).foldr (fun i odd => c.getLsbD (i + 1) ^^ odd) false ^^ c.getLsbD 10) := by
    simp [LinkChar.odd, List.range_succ]
  rw [ends, same, Bool.xor_self]

theorem linkChar_good (isAddress : Bool) (d : Byte) : LinkChar.good (linkChar isAddress d) = !isAddress := by
  rw [LinkChar.good_eq, linkChar_even, linkChar_stop, linkChar_type]
  cases isAddress <;> rfl

/-- Any one damaged bit after the start bit makes a good character bad. -/
theorem linkChar_damaged (d : Byte) {i : Nat} (low : 1 ≤ i) (high : i ≤ 11) :
    LinkChar.good (linkChar false d ^^^ BitVec.ofNat 12 (2 ^ i)) = false := by
  rw [LinkChar.good_eq]
  by_cases counted : i ≤ 10
  · rw [LinkChar.odd_damaged _ i ⟨low, counted⟩, linkChar_even]
    rfl
  · obtain rfl : i = 11 := by omega
    rw [LinkChar.getLsbD_damaged _ 11 11 (by decide), linkChar_stop]
    simp

/-! ### Frames -/

theorem goodData_sent (bytes : List Byte) : goodData (bytes.map (linkChar false)) = some bytes := by
  have good : (bytes.map (linkChar false)).all LinkChar.good = true := by
    rw [List.all_map, List.all_eq_true]
    exact fun d _ => linkChar_good false d
  have data : (bytes.map (linkChar false)).map LinkChar.data = bytes := by
    rw [List.map_map]
    exact (List.map_congr_left fun d _ => linkChar_data false d).trans (List.map_id bytes)
  rw [goodData, if_pos good, data]

theorem goodData_bad {chars : List LinkChar} (bad : ∃ c ∈ chars, LinkChar.good c = false) : goodData chars = none := by
  obtain ⟨c, mem, e⟩ := bad
  rw [goodData, if_neg]
  intro all
  rw [List.all_eq_true] at all
  exact absurd (all c mem) (by simp [e])

theorem goodData_length {chars : List LinkChar} {bytes : List Byte} (e : goodData chars = some bytes) :
    chars.length = bytes.length := by
  unfold goodData at e
  split at e
  · cases e; simp
  · cases e

/-- The high bits of a two-byte value that a range of `2 ^ (8 + n)` leaves unused. -/
theorem unusedBits_iff (v : Half) (n k : Nat) (sum : n + k = 8) :
    (v.extractLsb' 8 8).extractLsb' n k = 0 ↔ v.toNat < 2 ^ (8 + n) := by
  rw [← BitVec.toNat_inj]
  simp only [BitVec.extractLsb'_toNat, BitVec.ofNat_eq_ofNat, BitVec.toNat_ofNat, Nat.zero_mod, Nat.shiftRight_eq_div_pow]
  have bound := v.isLt
  obtain rfl : k = 8 - n := by omega
  have few : n ≤ 8 := by omega
  interval_cases n <;> omega

theorem replyFrame_sent (flags : Byte) (m l : Half) (check : Byte) :
    replyFrame ((flags :: (halfBytes m ++ halfBytes l ++ [check])).map (linkChar false)) =
      if check = checkSum (flags :: (halfBytes m ++ halfBytes l)) ∧ m.toNat ≤ 8191 ∧ l.toNat ≤ 16383 then
        some { flags := flags, tension := m.toNat, length := l.toNat } else none := by
  have unusedM := unusedBits_iff m 5 3 rfl
  have unusedL := unusedBits_iff l 6 2 rfl
  have low : m.toNat < 2 ^ (8 + 5) ↔ m.toNat ≤ 8191 := by omega
  have short : l.toNat < 2 ^ (8 + 6) ↔ l.toNat ≤ 16383 := by omega
  rw [replyFrame, goodData_sent]
  dsimp only [halfBytes, List.cons_append, List.nil_append]
  simp only [append_halfBytes, unusedM, unusedL, low, short, Bool.and_eq_true, decide_eq_true_eq, and_assoc]
  exact if_congr Iff.rfl rfl rfl

theorem diagnosticFrame_sent (kind : Byte) (v : Half) (check : Byte) :
    diagnosticFrame ((kind :: (halfBytes v ++ [check])).map (linkChar false)) =
      if check = checkSum (kind :: halfBytes v) then some (kind, v) else none := by
  rw [diagnosticFrame, goodData_sent]
  dsimp only [halfBytes, List.cons_append, List.nil_append]
  rw [append_halfBytes]
  exact if_congr Iff.rfl rfl rfl

theorem replyFrame_damaged {chars : List LinkChar} (damaged : chars.length ≠ 6 ∨ ∃ c ∈ chars, LinkChar.good c = false) :
    replyFrame chars = none := by
  unfold replyFrame
  split
  · next six =>
    rcases damaged with length | bad
    · exact absurd (goodData_length six) length
    · rw [goodData_bad bad] at six; cases six
  · rfl

theorem diagnosticFrame_damaged {chars : List LinkChar}
    (damaged : chars.length ≠ 4 ∨ ∃ c ∈ chars, LinkChar.good c = false) : diagnosticFrame chars = none := by
  unfold diagnosticFrame
  split
  · next four =>
    rcases damaged with length | bad
    · exact absurd (goodData_length four) length
    · rw [goodData_bad bad] at four; cases four
  · rfl

/-- R120's judgement of a reply. -/
theorem LinkSlot.judge_eq_some (slot : LinkSlot) (inTime : Bool) (chars extra : List LinkChar) (f : Frame) :
    slot.judge inTime chars = some (f, extra) ↔
      inTime = true ∧ replyFrame (chars.take 6) = some f ∧ extra = chars.drop 6 ∧
        ((∀ k, slot.kind ≠ .query k) → chars.drop 6 = []) := by
  unfold LinkSlot.judge
  split
  · next none => simp [none]
  · next _ _ frame query =>
    cases inTime <;> simp [frame, query, eq_comm]
  · next frame rest notQuery =>
    cases inTime <;> simp [frame, rest, eq_comm]
  · next frame rest notQuery =>
    have other : ∀ k, slot.kind ≠ .query k := notQuery
    simp [frame, rest]
    exact fun _ _ _ => other

end Sys2Proof.Machine

namespace Sys2Proof

open Machine

/-- Settles O49: a character by its bits, a frame by its characters, a reply by its frame. -/
theorem linkFramesRoundTrip : Obligations.LinkFramesRoundTrip := by
  refine ⟨fun d => ⟨linkChar_good false d, linkChar_data false d, linkChar_good true d, linkChar_data true d⟩,
    fun d i low high => linkChar_damaged d low high, fun flags m l bytes e => ?_, fun kind v bytes e => ?_,
    fun kind v check wrong => ?_, fun flags m l check wrong => ?_,
    fun chars => ⟨replyFrame_damaged, diagnosticFrame_damaged⟩, LinkSlot.judge_eq_some⟩
  · subst e
    have sent := replyFrame_sent flags m l (checkSum (flags :: (halfBytes m ++ halfBytes l)))
    simpa using sent
  · subst e
    have sent := diagnosticFrame_sent kind v (checkSum (kind :: halfBytes v))
    simpa using sent
  · rw [diagnosticFrame_sent, if_neg wrong]
  · rw [replyFrame_sent, if_neg fun ok => wrong ok.1]

end Sys2Proof
end

section
/-! PROOF. The regulator's counts row by row (R57 to R61, R73, R77, R151 to R154), the command slot's arbitration (R94), the
passing of time (R27, R96) and the invariants of the machine after reset. -/

namespace Sys2Proof.Machine

variable {s : State} {r : Record}

/-! ### Votes (R61) -/

theorem Record.voted_first (noLean : r.lean = none) (dir : Dir) (w : Nat) :
    r.voted dir w = { r with c := min r.t w, lean := some dir } := by
  rw [Record.voted, noLean]

theorem Record.voted_agreeing {dir : Dir} (lean : r.lean = some dir) (w : Nat) :
    r.voted dir w = { r with c := min r.t (r.c + w) } := by
  simp only [Record.voted, lean, if_true]

theorem Record.voted_within {dir other : Dir} (lean : r.lean = some other) (disagrees : other ≠ dir) {w : Nat}
    (within : w ≤ r.c) : r.voted dir w = { r with c := r.c - w, tripDeferred := false } := by
  simp only [Record.voted, lean, disagrees, if_false, within, if_true]

theorem Record.voted_flip {dir other : Dir} (lean : r.lean = some other) (disagrees : other ≠ dir) {w : Nat}
    (beyond : r.c < w) : r.voted dir w = { r with
      c := min r.t (w - r.c), lean := some dir, tripDeferred := false, payLimit := false, haulLimit := false } := by
  have notWithin : ¬ w ≤ r.c := Nat.not_le.mpr beyond
  simp only [Record.voted, lean, disagrees, if_false, notWithin]

/-! ### The command slot (R94) -/

theorem State.giveCommand_discarded {st : Fin 24} {c : Command} (discarded : commandPlaced (s.entry st).command c = false) :
    s.giveCommand st c = s := by
  simp [State.giveCommand, discarded]

theorem State.giveCommand_placed {st : Fin 24} {c : Command} (placed : commandPlaced (s.entry st).command c = true) :
    s.giveCommand st c = { s.putEntry st { s.entry st with command := some c } with
      scan := if s.scan.station = st
        then { s.scan with slot := s.scan.slot.map fun slot => { slot with replaced := true } } else s.scan } := by
  simp only [State.giveCommand, placed, if_true]

theorem Command.isStep_iff (c : Command) : c.isStep = true ↔ ∃ n, c = .stepPay n ∨ c = .stepHaul n := by
  cases c <;> simp [Command.isStep]

/-! ### Time (R27, R96) -/

/-- Time that passes without an expiry, in the words of the statements. -/
theorem State.timePassed_passTime (s : State) (elapsed : Nat) : s.TimePassed (s.passTime elapsed) elapsed where
  rest := by simp only [State.passTime]
  generations h := s.generation_passTime elapsed h
  records h := by
    rw [State.record?_passTime]
    refine congrArg (fun f => (s.record? h).map f) (funext fun r => ?_)
    cases e : r.deadline with
    | absent => cases r; simp_all [Record.pass, Deadline.pass]
    | running n => simp only [Record.pass, e, Deadline.pass, countDown, timeLeft, min_comm]
    | frozen n => cases r; simp_all [Record.pass, Deadline.pass]
  groups g := by
    rw [State.groupEntry_passTime]
    cases s.groupEntry g with
    | idle => rfl
    | running stage members n => simp only [GroupEntry.pass, countDown, timeLeft, min_comm]
    | waiting ended => rfl

/-! ### The machine after reset -/

@[simp] theorem State.record?_reset (h : Fin 32) : State.reset.record? h = none := by
  simp [State.record?, State.reset]

@[simp] theorem State.entry_reset (st : Fin 24) : State.reset.entry st = StationEntry.reset := by
  simp [State.entry, State.reset]

@[simp] theorem State.groupEntry_reset (g : Fin 8) : State.reset.groupEntry g = .idle := by
  simp [State.groupEntry, State.reset]

theorem State.eachRecord_reset (P : Record → Prop) : State.reset.EachRecord P :=
  fun h r at_h => by rw [State.record?_reset] at at_h; cases at_h

theorem StationEntry.reset_presenceOk : StationEntry.reset.PresenceOk :=
  ⟨fun _ => rfl, fun e => (nomatch e), fun e => (nomatch e)⟩

theorem StationEntry.reset_unworked : StationEntry.reset.Unworked := ⟨rfl, rfl, rfl, rfl, rfl, rfl, rfl, rfl⟩

theorem State.linkOk_reset : State.reset.LinkOk where
  presence st := by rw [State.entry_reset]; exact StationEntry.reset_presenceOk
  engaged h r at_h := by rw [State.record?_reset] at at_h; cases at_h
  unmapped st _ := by rw [State.entry_reset]; exact StationEntry.reset_unworked
  unconfigured _ := rfl
  zeroWaits st e := by rw [State.entry_reset] at e; cases e
  zeroing st e := by rw [State.entry_reset] at e; cases e

theorem State.stationsShared_reset : State.reset.StationsShared where
  engaged h h' r r' at_h := by rw [State.record?_reset] at at_h; cases at_h
  callTag h h' r r' at_h := by rw [State.record?_reset] at at_h; cases at_h
  atMostTwo st := by simp [State.recordsOn, State.handlesWith, State.holds]

theorem Timeouts.default_ok : BerthConfig.default.timeouts.Ok := by
  constructor <;> simp [BerthConfig.default, timeOk]

theorem State.timesOk_reset : State.reset.TimesOk where
  timeouts := Timeouts.default_ok
  running h r n at_h := by rw [State.record?_reset] at at_h; cases at_h
  frozen h r n at_h := by rw [State.record?_reset] at at_h; cases at_h
  stages g stage members n e := by rw [State.groupEntry_reset] at e; cases e

theorem State.holdOk_reset : State.reset.HoldOk := State.eachRecord_reset _

theorem State.groupsOk_reset : State.reset.GroupsOk := by
  intro g stage members remaining e
  rw [State.groupEntry_reset] at e
  cases e

end Sys2Proof.Machine

namespace Sys2Proof

open Machine

/-- Settles O3: the idle step is the passing of one unit of time. -/
theorem idleStepPassesTime : Obligations.IdleStepPassesTime := by
  intro s empty
  refine ⟨s.passTime 1, ?_, s.timePassed_passTime 1⟩
  rw [step, empty]
  rfl

/-- Settles O46: the vote's row goes by the lean and the weight. -/
theorem voteUpdatesDriftAndLean : Obligations.VoteUpdatesDriftAndLean := by
  intro r dir w
  refine ⟨fun noLean => Record.voted_first noLean dir w, fun lean => Record.voted_agreeing lean w, fun lean full => ?_,
    fun other lean disagrees => ⟨fun within => Record.voted_within lean disagrees within.le, fun exact' => ?_,
      fun beyond => Record.voted_flip lean disagrees beyond⟩⟩
  · rw [Record.voted_agreeing lean]
    show min r.t (r.c + w) = r.t
    omega
  · rw [Record.voted_within lean disagrees exact'.le, exact', Nat.sub_self]

/-- Settles O47: the arbitration's three rows are those of `commandPlaced`. -/
theorem commandSlotArbitration : Obligations.CommandSlotArbitration := by
  intro s st c
  refine ⟨fun free other => ?_, fun stop step => ?_, fun notZero notFree notStop => ?_⟩
  · exact State.giveCommand_discarded (by simp [commandPlaced, free, other])
  · have isStep := c.isStep_iff.mpr step
    exact State.giveCommand_discarded (by simp [commandPlaced, stop, isStep])
  · refine State.giveCommand_placed ?_
    unfold commandPlaced
    split
    · next free => simpa using notFree free
    · next stop =>
      have noStep : ¬ c.isStep = true := by
        rw [Command.isStep_iff]
        rintro ⟨n, e | e⟩
        · exact (notStop stop n).1 e
        · exact (notStop stop n).2 e
      simpa using noStep
    · rfl

/-- Settles O44: each count goes by the record's own fields, and a proving part by its phase. -/
theorem episodesTotalsAndProvingPhases : Obligations.EpisodesTotalsAndProvingPhases := by
  refine ⟨fun r => ⟨?_, ?_, ?_, ?_, ?_, ?_, ?_, ?_, ?_⟩, fun r p inBand at_p => ⟨fun push => ⟨?_, ?_, ?_, ?_⟩, ?_, ?_, ?_, ?_,
    ?_, ?_⟩⟩
  · intro render quiet; simp [Record.noteOverload, render, quiet, Record.raise, NoticeSet.raise]
  · intro render episode; simp [Record.noteOverload, render, episode]
  · intro below
    have notRender : ¬ r.q ≤ r.m := by omega
    simp [Record.noteOverload, notRender, below]
  · intro above notRender
    have notBelow : ¬ r.m < r.q - r.b := by omega
    simp [Record.noteOverload, Nat.not_le.mpr notRender, notBelow]
  · intro slack; simp [Record.countSlack, slack]
  · intro tight; simp [Record.countSlack, Nat.not_le.mpr tight]
  · intro none; simp [Record.completeStep, none]
  · intro amount pay; simp [Record.completeStep, pay, countStep]
  · intro amount haul; simp [Record.completeStep, haul, countStep]
  · simp only [Record.movePush, at_p, push, clampInt]
  · intro more; simp only [Record.countProving, at_p, push, Nat.not_le.mpr more, if_false]
  · intro full dwells; simp only [Record.countProving, at_p, push, full, dwells, if_true]
  · intro full settles
    simp only [Record.countProving, at_p, push, full, settles, if_true, Bool.false_eq_true, if_false, ProvingPart.settling]
  · intro other; simp only [Record.movePush, at_p]
  · intro dwell; simp only [Record.countProving, at_p, dwell]
  · intro steps first kept settle noted
    have same : (if (first.isNone && inBand) = true then some p.counter else first) = kept := by
      rw [noted]; cases first <;> simp
    refine ⟨fun more => ?_, fun full => ?_⟩
    · simp only [Record.countProving, at_p, settle, same, Nat.not_le.mpr more, if_false]
    · simp only [Record.countProving, at_p, settle, same, full, if_true, Record.raise, NoticeSet.raise]
  · intro steps first settle; simp only [ProvingPart.countIssued, settle]
  · intro other
    rcases other with e | e <;> simp only [ProvingPart.countIssued, e]
  · intro ok
    have mem := ok.setpoint_mem
    omega

/-- Settles O53: the machine after reset has no record, no work at any station, no stage and an empty port. -/
theorem invariantsHoldAtReset : Obligations.InvariantsHoldAtReset :=
  ⟨State.eachRecord_reset _, State.eachRecord_reset _, State.holdOk_reset, State.timesOk_reset, State.stationsShared_reset,
    State.linkOk_reset, State.groupsOk_reset, Port.reset_ok 0⟩

end Sys2Proof
end

section
/-! PROOF. The berth lines and conditions (R136 to R141), SET OUTPUTS and ACK EMERGENCY (R139, R144), the berth report
(section 11.7), the two resets (R20, R21) and the slots of the scan (R115, R118). -/

namespace Sys2Proof.Machine

variable {s : State}

/-! ### Conditions (R138) -/

theorem State.linesOf_isEmpty (s : State) (f : LineFunction) :
    (s.linesOf f).isEmpty = true ↔ ∀ l, (s.lineConfig l).function ≠ f := by
  simp only [List.isEmpty_iff, List.eq_nil_iff_forall_not_mem, s.mem_linesOf, ne_eq]

theorem State.condition_unassigned {f : LineFunction} (unassigned : ∀ l, (s.lineConfig l).function ≠ f) :
    s.condition f = true ↔ f = .contact := by
  rw [State.condition, if_pos ((s.linesOf_isEmpty f).mpr unassigned), decide_eq_true_iff]

theorem State.condition_assigned {f : LineFunction} (assigned : ∃ l, (s.lineConfig l).function = f) :
    s.condition f = true ↔ ∃ l, (s.lineConfig l).function = f ∧ s.lineActive l = true := by
  have some : ¬ (s.linesOf f).isEmpty = true := by
    rw [s.linesOf_isEmpty f]; push Not; exact assigned
  rw [State.condition, if_neg some, List.any_eq_true]
  simp only [s.mem_linesOf]

theorem LineConfig.activeLevel_eq_high (c : LineConfig) : c.activeLevel = .high ↔ c.activeLow = false := by
  cases e : c.activeLow <;> simp [LineConfig.activeLevel, e]

theorem LineConfig.activeLevel_eq_low (c : LineConfig) : c.activeLevel = .low ↔ c.activeLow = true := by
  cases e : c.activeLow <;> simp [LineConfig.activeLevel, e]

/-- A line is active by its qualified level and polarity, and at NONE for HOLD and RAMP alone (R136, R138). -/
theorem State.lineActive_iff (s : State) (l : Fin 8) : s.lineActive l = true ↔
    (s.line l).qualified = some .high ∧ (s.lineConfig l).activeLow = false ∨
      (s.line l).qualified = some .low ∧ (s.lineConfig l).activeLow = true ∨
      (s.line l).qualified = none ∧ ((s.lineConfig l).function = .hold ∨ (s.lineConfig l).function = .ramp) := by
  rw [State.lineActive, ← LineConfig.activeLevel_eq_high, ← LineConfig.activeLevel_eq_low]
  cases (s.line l).qualified with
  | none => simp
  | some level => cases level <;> simp [eq_comm]

/-! ### Qualification (R137) -/

theorem exec_lineQualified (s : State) (l : Fin 8) : exec (.lineQualified l) s = .next (s.qualify l) := rfl

/-- The state with the level on a line's pin qualified. -/
def State.qualified (s : State) (l : Fin 8) : State :=
  s.putLine l { s.line l with qualified := some (s.line l).pin, qualifying := false }

theorem State.isInput_iff (s : State) (l : Fin 8) : s.isInput l = true ↔ (s.lineConfig l).function ≠ .generalOut := by
  simp [State.isInput]

theorem State.qualify_input {l : Fin 8} (input : (s.lineConfig l).function ≠ .generalOut)
    (counted : (s.line l).qualifying = true) : s.qualify l = (s.qualified l).takeConditionChanges s.conditions := by
  rw [State.qualify, if_pos (by simp [State.isInput, input, counted])]
  rfl

theorem State.qualify_nothing {l : Fin 8} (nothing : (s.lineConfig l).function = .generalOut ∨ (s.line l).qualifying = false) :
    s.qualify l = s := by
  rw [State.qualify, if_neg]
  rcases nothing with e | e <;> simp [State.isInput, e]

theorem State.takeHoldChange_same (s : State) : s.takeHoldChange s.berthHold = s := by
  cases e : s.berthHold <;> simp [State.takeHoldChange, e]

/-- Conditions that stand as they were reach no block (R138). -/
theorem State.takeConditionChanges_same {was : Conditions} (same : s.conditions = was) : s.takeConditionChanges was = s := by
  subst same
  have noHold : s.takeHoldChange s.conditions.berthHold = s := s.takeHoldChange_same
  simp [State.takeConditionChanges, noHold]

/-! ### Output latches (R139) -/

theorem State.line_writeLatches (s : State) (latches : Byte) (l : Fin 8) :
    (s.writeLatches latches).line l = { s.line l with latch := latches.getLsbD l } := by
  have each := foldl_pointwise State.line (fun s (l : Fin 8) => s.putLine l { s.line l with latch := latches.getLsbD l })
    (fun l b => { b with latch := latches.getLsbD l })
    (fun s l l' => s.line_putLine l l' _) (List.finRange 8) (List.nodup_finRange 8) s l
  rwa [if_pos (List.mem_finRange l)] at each

/-- A pass over the lines leaves everything but the lines as it was. -/
theorem foldl_lines_frame {α : Type} (l : List α) (f : State → α → State) (one : ∀ s a, ∃ lines, f s a = { s with lines := lines })
    (s : State) : ∃ lines, l.foldl f s = { s with lines := lines } := by
  refine foldl_keeps (fun t => ∃ lines, t = { s with lines := lines }) f (fun t a ih => ?_) l s ⟨s.lines, rfl⟩
  obtain ⟨lines, rfl⟩ := ih
  obtain ⟨lines', e⟩ := one { s with lines := lines } a
  exact ⟨lines', e⟩

theorem State.writeLatches_frame (s : State) (latches : Byte) :
    ∃ lines, s.writeLatches latches = { s with lines := lines } :=
  foldl_lines_frame _ _ (fun _ _ => ⟨_, rfl⟩) s

theorem exec_setOutputs (waits : s.port.Awaits) (latches : Byte) :
    exec (.setOutputs latches) s = .next ((s.writeLatches latches).answering s .setOutputs .done []) :=
  sendRequest_answered waits .setOutputs [latches] rfl rfl

theorem Level.of_latch (c : LineConfig) (latch : Bool) :
    ((if latch then c.activeLevel else c.inactiveLevel) = .high ↔ latch ≠ c.activeLow) ∧
      ((if latch then c.activeLevel else c.inactiveLevel) = .low ↔ latch = c.activeLow) := by
  cases e : c.activeLow <;> cases latch <;> simp [LineConfig.activeLevel, LineConfig.inactiveLevel, e]

/-! ### The berth report (section 11.7) -/

/-- A line's byte is laid out as section 11.7 gives it. -/
theorem lineByte_layout (low : Bool) (level : BitVec 2) (latch : Bool) (code : BitVec 3) (b : Byte)
    (e : b = BitVec.ofBool low ++ 0#1 ++ level ++ BitVec.ofBool latch ++ code) :
    b.extractLsb' 0 3 = code ∧ b.getLsbD 3 = latch ∧ b.extractLsb' 4 2 = level ∧ b.getLsbD 6 = false ∧
      b.getLsbD 7 = low := by
  have bit (i : Nat) : b.getLsbD i = if i < 3 then code.getLsbD i else if i < 4 then latch
      else if i < 6 then level.getLsbD (i - 4) else if i < 7 then false else low && i == 7 := by
    subst e
    show BitVec.getLsbD (w := 1 + 1 + 2 + 1 + 3) _ i = _
    simp only [BitVec.getLsbD_append]
    match i with
    | 0 | 1 | 2 | 3 | 4 | 5 | 6 | 7 => simp
    | i + 8 => simp
  refine ⟨?_, by rw [bit]; simp, ?_, by rw [bit]; simp, by rw [bit]; simp⟩
  · refine BitVec.eq_of_getLsbD_eq fun i inside => ?_
    rw [BitVec.getLsbD_extractLsb', bit]
    simp [inside]
  · refine BitVec.eq_of_getLsbD_eq fun i inside => ?_
    rw [BitVec.getLsbD_extractLsb', bit]
    have h1 : ¬ 4 + i < 3 := by omega
    have h3 : 4 + i < 6 := by omega
    simp [inside, h1, h3]

/-- Entry `i` of a list of four-byte parts. -/
theorem byteAt_flatMap_four {α : Type} (f : α → List Byte) (four : ∀ a, (f a).length = 4) (l : List α) (i : Nat)
    (inside : i < l.length) (k : Nat) (low : k < 4) : byteAt (l.flatMap f) (4 * i + k) = byteAt (f l[i]) k := by
  induction l generalizing i with
  | nil => simp at inside
  | cons a l ih =>
    rw [List.flatMap_cons]
    cases i with
    | zero => simp [byteAt, List.getElem?_append_left, four, low]
    | succ i =>
      have place : 4 * (i + 1) + k = (f a).length + (4 * i + k) := by rw [four]; omega
      rw [place, byteAt_append, ih i (by simpa using inside)]
      rfl

theorem State.byteAt_berthReport_line (s : State) (l : Fin 8) : byteAt s.berthReport l = s.lineByte l := by
  have inside : l.val < ((List.finRange 8).map s.lineByte).length := by simp
  simp [State.berthReport, byteAt, List.getElem?_append_left]

theorem State.byteAt_berthReport_flags (s : State) : byteAt s.berthReport 8 =
    byteOfBits (s.condition .contact) (s.condition .hold) (s.condition .ramp) (s.condition .emergency) s.softwareHold
      s.berthHold s.emergencyLatch s.configured := by
  simp [State.berthReport, byteAt]

theorem State.byteAt_berthReport_group (s : State) (g : Fin 8) (k : Nat) (low : k < 4) :
    byteAt s.berthReport (10 + (4 * g + k)) = byteAt (s.groupEntry g).bytes k := by
  have behind := byteAt_append ((List.finRange 8).map s.lineByte ++
    [byteOfBits (s.condition .contact) (s.condition .hold) (s.condition .ramp) (s.condition .emergency) s.softwareHold
        s.berthHold s.emergencyLatch s.configured, byteOf s.berthState.code])
    ((List.finRange 8).flatMap fun g => (s.groupEntry g).bytes) (4 * g + k)
  refine behind.trans ?_
  rw [byteAt_flatMap_four _ (fun _ => by simp) _ g.val (by simp) k low]
  simp

theorem State.halfAt_berthReport_group (s : State) (g : Fin 8) :
    halfAt s.berthReport (12 + 4 * g) = halfAt (s.groupEntry g).bytes 2 := by
  have low := s.byteAt_berthReport_group g 2 (by decide)
  have high := s.byteAt_berthReport_group g 3 (by decide)
  have e2 : 10 + (4 * g.val + 2) = 12 + 4 * g.val := by omega
  have e3 : 10 + (4 * g.val + 3) = 12 + 4 * g.val + 1 := by omega
  rw [e2] at low
  rw [e3] at high
  rw [halfAt, low, high, halfAt]

/-- The four bytes of a group, as the berth report shows them. -/
theorem GroupEntry.bytes_idle : byteAt GroupEntry.idle.bytes 0 = 0 ∧ byteAt GroupEntry.idle.bytes 1 = 0 ∧
    halfAt GroupEntry.idle.bytes 2 = 0 := ⟨rfl, rfl, rfl⟩

theorem GroupEntry.bytes_running (stage : Stage) (members : List Ref) (n : Nat) :
    byteAt (GroupEntry.running stage members n).bytes 0 = byteOf stage.code ∧
      byteAt (GroupEntry.running stage members n).bytes 1 = byteOf members.length ∧
      halfAt (GroupEntry.running stage members n).bytes 2 = BitVec.ofNat 16 n := by
  refine ⟨rfl, rfl, ?_⟩
  exact halfAt_of_split (before := [byteOf stage.code, byteOf members.length]) (after := []) (by simp [GroupEntry.bytes, halfOf])
    rfl

theorem GroupEntry.bytes_waiting (stage : Stage) : byteAt (GroupEntry.waiting stage).bytes 0 = byteOf (128 + stage.code) ∧
    byteAt (GroupEntry.waiting stage).bytes 1 = 0 ∧ halfAt (GroupEntry.waiting stage).bytes 2 = 0 := by
  cases stage <;> decide

/-! ### The slots of the scan (R115, R118) -/

theorem exec_slotStart (s : State) : exec .slotStart s = .next s.beginSlot := rfl

theorem State.beginSlot_nothing (nothing : s.configured = false ∨ s.scan.slot ≠ none) : s.beginSlot = s := by
  rw [State.beginSlot, if_neg]
  rcases nothing with e | e
  · simp [e]
  · simpa using fun _ => e

theorem addressByte_eq (kind : SlotKind) (st : Fin 24) : addressByte kind st = byteOf (32 * kind.code + st) := by
  have few : kind.code < 4 := by cases kind <;> simp [SlotKind.code]
  refine BitVec.eq_of_toNat_eq ?_
  rw [addressByte, byteOf, BitVec.toNat_append, BitVec.toNat_ofNat, BitVec.toNat_ofNat, BitVec.toNat_ofNat,
    ← Nat.shiftLeft_add_eq_or_of_lt (Nat.mod_lt _ (by decide)), Nat.shiftLeft_eq]
  omega

theorem State.beginSlot_kind (configured : s.configured = true) (free : s.scan.slot = none) {kind : SlotKind}
    (next : s.nextSlotKind = kind) (notQuery : ∀ k, kind ≠ .query k) : s.beginSlot = { s with scan := {
      station := s.scan.station
      slot := some { kind := kind, sent := slotCharacters kind s.scan.station, replaced := false } } } := by
  rw [State.beginSlot, if_pos (by simp [configured, free])]
  simp only [next]

theorem State.beginSlot_query (configured : s.configured = true) (free : s.scan.slot = none) {k : DiagKind}
    (next : s.nextSlotKind = .query k) : s.beginSlot =
      { s.putEntry s.scan.station ((s.entry s.scan.station).querySent k) with scan := {
        station := s.scan.station
        slot := some { kind := .query k, sent := slotCharacters (.query k) s.scan.station, replaced := false } } } := by
  rw [State.beginSlot, if_pos (by simp [configured, free])]
  simp only [next]
  rfl

end Sys2Proof.Machine

namespace Sys2Proof

open Machine

/-- Settles O16: a condition follows the lines assigned its function, each active by its level and polarity. -/
theorem conditionsFollowTheirLines : Obligations.ConditionsFollowTheirLines := by
  refine fun s => ⟨fun f _ => ⟨State.condition_unassigned, fun assigned => ?_⟩, ?_⟩
  · rw [State.condition_assigned assigned]
    refine exists_congr fun l => and_congr_right fun function => ?_
    rw [s.lineActive_iff, function]
  · rw [State.berthHold, Bool.or_eq_true]

/-- Settles O14: a pin change records the level, and a qualification without a change of conditions takes it alone. -/
theorem pinLevelsAreQualified : Obligations.PinLevelsAreQualified := by
  refine ⟨fun s l level => ⟨fun same => ?_, fun other => ?_⟩, fun s l => ⟨fun nothing => ?_, fun input counted same => ?_⟩⟩
  · exact congrArg Host.Outcome.next (if_pos same)
  · refine ⟨_, congrArg Host.Outcome.next (if_neg other), rfl, ?_, fun l' ne => ?_⟩
    · rw [State.line_putLine_self]; rfl
    · rw [State.line_putLine, if_neg ne]
  · rw [exec_lineQualified, State.qualify_nothing nothing]
  · rw [exec_lineQualified, State.qualify_input input counted]
    exact congrArg Host.Outcome.next (State.takeConditionChanges_same same)

/-- Settles O15: each latch takes its bit, each output follows its latch, and ACK EMERGENCY goes by the condition. -/
theorem outputsAndAcknowledgement : Obligations.OutputsAndAcknowledgement := by
  refine ⟨fun s latches waits => ?_, fun s waits => ⟨fun active => ?_, fun inactive => ?_⟩⟩
  · obtain ⟨lines, frame⟩ := s.writeLatches_frame latches
    have config : ∀ l, (s.writeLatches latches).lineConfig l = s.lineConfig l := fun l => by rw [frame]; rfl
    refine ⟨s.writeLatches latches, exec_setOutputs waits latches, by rw [frame], s.line_writeLatches latches,
      fun l other => ?_, fun l output => ?_⟩
    · rw [State.driven, config, if_neg other]
    · have latch : ((s.writeLatches latches).line l).latch = latches.getLsbD l := by rw [s.line_writeLatches]
      rw [State.driven, config, if_pos output, latch]
      simpa only [Option.some.injEq] using Level.of_latch (s.lineConfig l) (latches.getLsbD l)
  · exact sendRequest_answered waits .ackEmergency [] rfl (if_pos active)
  · exact sendRequest_answered waits .ackEmergency [] rfl (if_neg (by simp [inactive]))

/-- Settles O18: each part of the report at its offset. -/
theorem berthReportLayout : Obligations.BerthReportLayout := by
  intro s waits
  have flags (i : Nat) := congrArg (fun b : Byte => b.getLsbD i) s.byteAt_berthReport_flags
  simp only [getLsbD_byteOfBits] at flags
  refine ⟨s.berthReport, exec_readBerth waits, s.berthReport_length, fun l => ?_, flags 0, flags 1, flags 2, flags 3,
    flags 4, flags 5, flags 6, flags 7, ?_, fun g => ?_⟩
  · rw [s.byteAt_berthReport_line]
    obtain ⟨code, latch, level, unused, low⟩ := lineByte_layout _ _ _ _ (s.lineByte l) rfl
    refine ⟨?_, latch, ?_, unused, low⟩
    · rw [code]; cases (s.lineConfig l).function <;> rfl
    · rw [level]
      split
      · rfl
      · cases (s.line l).qualified with
        | none => rfl
        | some level => cases level <;> rfl
  · have state := s.berthReport_stateByte
    rw [byteAt, List.getD_eq_getElem?_getD, state]
    rfl
  · have first := s.byteAt_berthReport_group g 0 (by decide)
    have second := s.byteAt_berthReport_group g 1 (by decide)
    have place : 10 + (4 * g.val + 1) = 11 + 4 * g.val := by omega
    rw [Nat.add_zero] at first
    rw [place] at second
    rw [first, second, s.halfAt_berthReport_group]
    exact ⟨fun e => by rw [e]; exact GroupEntry.bytes_idle, fun stage members n e => by rw [e]; exact GroupEntry.bytes_running ..,
      fun stage e => by rw [e]; exact GroupEntry.bytes_waiting stage⟩

/-- Settles O36: every block at its reset value, and what the reset does not reach as it was. -/
theorem powerOnResetLosesEverything : Obligations.PowerOnResetLosesEverything := by
  intro s
  have entry (st : Fin 24) : s.powerOnReset.entry st = StationEntry.reset := State.entry_reset st
  refine ⟨s.powerOnReset, rfl, fun h => ⟨s.record?_powerOnReset h, ?_⟩, rfl, rfl, rfl, rfl, rfl, rfl, fun st => ?_,
    s.lineConfig_powerOnReset, rfl, fun st => ?_, rfl, State.groupEntry_reset, s.line_powerOnReset, rfl, rfl, rfl, rfl, rfl, rfl⟩
  · simp [State.generation, State.powerOnReset, State.reset]
  · simp [State.mapped, State.powerOnReset, State.reset, BerthConfig.default]
  · rw [entry]; exact ⟨rfl, rfl, rfl, rfl, rfl, rfl, rfl, rfl, rfl, rfl⟩

/-- Settles O37: the table rewritten record by record, and the other blocks at their reset values. -/
theorem warmResetKeepsTheTable : Obligations.WarmResetKeepsTheTable := by
  intro s
  refine ⟨s.warmReset, rfl, by simp only [State.warmReset], fun h => ?_, fun h => ?_, fun st => ?_, fun g => ?_,
    s.line_warmReset, by simp only [State.warmReset, Port.reset]⟩
  · simp only [State.generation, State.warmReset, getElem_mapEntries]
  · rw [s.record?_warmReset]
    refine congrArg (fun f => (s.record? h).map f) (funext fun r => ?_)
    cases e : r.state <;> simp [Record.afterWarmReset, e, LineState.afterWarmReset, LineState.faultedByReset,
      LineState.heldByReset]
  · simp [State.entry, State.warmReset, StationEntry.afterWarmReset]
  · simp [State.groupEntry, State.warmReset]

/-- Settles O38: the slot's kind goes by map and entry, and its characters by its kind. -/
theorem slotSendsByTheStationsEntry : Obligations.SlotSendsByTheStationsEntry := by
  intro s st e at_st at_e
  subst at_st at_e
  refine ⟨fun nothing => by rw [exec_slotStart, State.beginSlot_nothing nothing], fun configured free =>
    ⟨fun unmapped => ?_, fun c mapped waiting => ?_, fun k mapped empty asked => ?_, fun mapped empty unasked => ?_⟩⟩
  · have next : s.nextSlotKind = .silent := by simp [State.nextSlotKind, unmapped]
    rw [exec_slotStart, State.beginSlot_kind configured free next (fun _ e => nomatch e)]
    rfl
  · have next : s.nextSlotKind = .command c (s.entry s.scan.station).toggle := by
      simp [State.nextSlotKind, mapped, StationEntry.slotKind, waiting]
    rw [exec_slotStart, State.beginSlot_kind configured free next (fun _ e => nomatch e), slotCharacters, addressByte_eq]
    · rfl
    · exact fun e => nomatch e
  · have next : s.nextSlotKind = .query k := by
      simp [State.nextSlotKind, mapped, StationEntry.slotKind, empty, asked]
    rw [exec_slotStart, State.beginSlot_query configured free next, slotCharacters, addressByte_eq]
    · rfl
    · exact fun e => nomatch e
  · have next : s.nextSlotKind = .poll := by
      simp [State.nextSlotKind, mapped, StationEntry.slotKind, empty, unasked]
    rw [exec_slotStart, State.beginSlot_kind configured free next (fun _ e => nomatch e), slotCharacters, addressByte_eq]
    · rfl
    · exact fun e => nomatch e

end Sys2Proof
end

section
/-! PROOF. The requests of the Line Table and of the reports (R8 to R16, R80): bad targets, ASSIGN, FIND, READ RECORD and NEXT
NOTICE, each by its checks in order. -/

namespace Sys2Proof.Machine

variable {s : State}

/-! ### Targets (R80) -/

theorem RecordAction.onTarget_error {kind value : Byte} {result : Result} (bad : Target.ofBytes kind value = .error result)
    (a : RecordAction) (whole : State → Option Result) (s : State) : a.onTarget whole s kind value = refuse s result := by
  rw [RecordAction.onTarget, bad]

/-- A kind above 2, and a group above 7 (R80). -/
theorem Target.ofBytes_error {kind value : Byte} {result : Result}
    (bad : 2 < kind.toNat ∧ result = .badRequest ∨ kind = 1 ∧ 7 < value.toNat ∧ result = .range) :
    Target.ofBytes kind value = .error result := by
  rcases bad with ⟨above, rfl⟩ | ⟨rfl, above, rfl⟩
  · unfold Target.ofBytes
    split
    case h_4 => rfl
    all_goals omega
  · have none' : finOf 8 value.toNat = none := by rw [finOf, dif_neg (by omega)]
    show (match finOf 8 value.toNat with
      | some g => Except.ok (Target.group g)
      | none => Except.error Result.range) = _
    rw [none']

theorem takeRelease_error {kind value : Byte} {result : Result} (bad : Target.ofBytes kind value = .error result)
    (s : State) : takeRelease kind value s = refuse s result := by
  rw [takeRelease, bad]

theorem takeRetire_error {kind value : Byte} {result : Result} (bad : Target.ofBytes kind value = .error result)
    (s : State) : takeRetire kind value s = refuse s result := by
  rw [takeRetire, bad]
  exact retireAction.onTarget_error bad _ s

/-! ### ASSIGN (R8 to R11) -/

theorem finOf_some {n v : Nat} (inside : v < n) : finOf n v = some ⟨v, inside⟩ := dif_pos inside

theorem finOf_none {n v : Nat} (outside : n ≤ v) : finOf n v = none := dif_neg (Nat.not_lt.mpr outside)

theorem Role.ofByte_some {b : Byte} (inside : b.toNat ≤ 3) : ∃ role, Role.ofByte b = some role ∧ role.code = b.toNat := by
  have codes : b.toNat = 0 ∨ b.toNat = 1 ∨ b.toNat = 2 ∨ b.toNat = 3 := by omega
  rcases codes with e | e | e | e
  · exact ⟨.breast, by rw [Role.ofByte, e]; rfl, e.symm⟩
  · exact ⟨.head, by rw [Role.ofByte, e]; rfl, e.symm⟩
  · exact ⟨.stern, by rw [Role.ofByte, e]; rfl, e.symm⟩
  · exact ⟨.spring, by rw [Role.ofByte, e]; rfl, e.symm⟩

theorem Role.ofByte_none {b : Byte} (outside : 3 < b.toNat) : Role.ofByte b = none := by
  unfold Role.ofByte
  split
  case h_5 => rfl
  all_goals omega

/-- The RANGE checks of ASSIGN, passed (R8). -/
structure AssignInRange (a : AssignBody) : Prop where
  station : a.station.toNat ≤ 23
  group : a.group.toNat ≤ 7
  role : a.role.toNat ≤ 3
  ordered : a.lMin.toNat < a.lMax.toNat
  most : a.lMax.toNat ≤ 12000

theorem AssignInRange.place {a : AssignBody} (ok : AssignInRange a) : ∃ place, a.place = some place ∧
    place.station.val = a.station.toNat ∧ place.group.val = a.group.toNat ∧ place.role.code = a.role.toNat := by
  obtain ⟨role, named, code⟩ := Role.ofByte_some ok.role
  have station := finOf_some (n := 24) (Nat.lt_succ_of_le ok.station)
  have group := finOf_some (n := 8) (Nat.lt_succ_of_le ok.group)
  refine ⟨⟨⟨_, Nat.lt_succ_of_le ok.station⟩, ⟨_, Nat.lt_succ_of_le ok.group⟩, role⟩, ?_, rfl, rfl, code⟩
  simp only [AssignBody.place, station, group, named, ok.ordered, ok.most, decide_true, Bool.and_self, if_true]

theorem place_none {a : AssignBody} (outside : 23 < a.station.toNat ∨ 7 < a.group.toNat ∨ 3 < a.role.toNat ∨
    a.lMax.toNat ≤ a.lMin.toNat ∨ 12000 < a.lMax.toNat) : a.place = none := by
  unfold AssignBody.place
  rcases outside with station | group | role | order | most
  · rw [finOf_none station]
  · rw [finOf_none group]; split <;> simp_all
  · rw [Role.ofByte_none role]; split <;> simp_all
  · split
    · rw [if_neg]; simp; omega
    · rfl
  · split
    · rw [if_neg]; simp; omega
    · rfl

/-- The station rule of ASSIGN in the words of R9. -/
theorem State.stationTaken_iff (s : State) (st : Fin 24) (tag : Byte) :
    s.stationTaken st tag = true ↔ 2 ≤ (s.recordsOn st).length ∨
      ∃ h r, s.record? h = some r ∧ r.station = st ∧ r.callTag = tag := by
  simp [State.stationTaken, State.holds_iff]

theorem State.recordsOn_count (s : State) {st : Fin 24} {n : Nat} (e : st.val = n) :
    (s.recordsOn st).length = s.count fun r => r.station.val = n := by
  subst e
  simp only [State.recordsOn, State.count, Fin.ext_iff]

theorem State.stationTaken_iff_of_val (s : State) {st : Fin 24} {n : Nat} (e : st.val = n) (tag : Byte) :
    s.stationTaken st tag = true ↔ 2 ≤ (s.count fun r => r.station.val = n) ∨
      ∃ h r, s.record? h = some r ∧ r.station.val = n ∧ r.callTag = tag := by
  rw [s.stationTaken_iff, s.recordsOn_count e]
  simp only [← e, Fin.ext_iff]

theorem State.lowestFree_none (full : ∀ h, s.record? h ≠ none) : s.lowestFree = none := by
  rw [State.lowestFree, List.find?_eq_none]
  intro h _
  simpa using full h

/-- The first element of the handles that passes a test. -/
theorem find?_finRange {n : Nat} {test : Fin n → Bool} {h : Fin n} (passes : test h = true)
    (lowest : ∀ h', h' < h → test h' = false) : (List.finRange n).find? test = some h := by
  cases found : (List.finRange n).find? test with
  | none => exact absurd passes (by simpa using List.find?_eq_none.mp found h (List.mem_finRange h))
  | some h' =>
    have passes' := List.find?_some found
    have notBelow : ¬ h' < h := fun below => by simp [lowest h' below] at passes'
    have sorted := List.find?_eq_some_iff_append.mp found
    obtain ⟨-, before, after, split, none⟩ := sorted
    have notAbove : ¬ h < h' := by
      intro below
      have mem : h ∈ before ++ h' :: after := by rw [← split]; exact List.mem_finRange h
      have order : (before ++ h' :: after).Pairwise (· < ·) := by rw [← split]; exact List.pairwise_lt_finRange n
      rcases List.mem_append.mp mem with m | m
      · exact absurd passes (by simpa using none h m)
      · rcases List.mem_cons.mp m with rfl | m
        · exact lt_irrefl _ below
        · exact absurd below (not_lt.mpr (List.rel_of_pairwise_cons (List.pairwise_append.mp order).2.1 m).le)
    rw [le_antisymm (not_lt.mp notAbove) (not_lt.mp notBelow)]

theorem State.lowestFree_some {h : Fin 32} (free : s.record? h = none) (lowest : ∀ h', h' < h → s.record? h' ≠ none) :
    s.lowestFree = some h :=
  find?_finRange (by simp [free]) fun h' below => by
    rw [Option.isNone_eq_false_iff]; exact Option.isSome_iff_ne_none.mpr (lowest h' below)

theorem exec_assign (waits : s.port.Awaits) (a : AssignBody) {t : State} {result : Result} {out : List Byte}
    (taken : takeAssign a s = (t, { result := result, body := out })) :
    exec (.assign a) s = .next (t.answering s .assign result out) :=
  sendRequest_answered waits .assign a.bytes rfl (by rw [runRequest, AssignBody.ofBytes_bytes, taken])

/-! ### FIND and READ RECORD (R12 to R14) -/

theorem exec_find (waits : s.port.Awaits) (kind value : Byte) {result : Result} {out : List Byte}
    (taken : takeFind kind value s = (s, { result := result, body := out })) :
    exec (.find kind value) s = .next (s.answering s .find result out) :=
  sendRequest_answered waits .find [kind, value] rfl taken

theorem State.handlesWith_sorted (s : State) (test : Record → Bool) : (s.handlesWith test).Pairwise (· < ·) :=
  (List.pairwise_lt_finRange 32).filter _

/-- A FIND that passes replies with the records of its key, whichever kind the key has. -/
theorem takeFind_key (s : State) {kind value : Byte} {key : Record → Nat}
    (named : kind = 0 ∧ value.toNat ≤ 23 ∧ (key = fun r => r.station.val) ∨ kind = 1 ∧ (key = fun r => r.callTag.toNat) ∨
      kind = 2 ∧ value.toNat ≤ 7 ∧ (key = fun r => r.group.val)) :
    takeFind kind value s = findReply s kind value fun r => key r = value.toNat := by
  rcases named with ⟨rfl, inside, rfl⟩ | ⟨rfl, rfl⟩ | ⟨rfl, inside, rfl⟩
  · exact if_pos (Nat.lt_succ_of_le inside)
  · have same : (fun r : Record => decide (r.callTag = value)) = fun r => decide (r.callTag.toNat = value.toNat) :=
      funext fun r => decide_eq_decide.mpr BitVec.toNat_inj.symm
    exact congrArg (findReply s 1 value) same
  · exact if_pos (Nat.lt_succ_of_le inside)

theorem takeFind_refused (s : State) {kind value : Byte} {result : Result}
    (bad : 2 < kind.toNat ∧ result = .badRequest ∨ (kind = 0 ∧ 23 < value.toNat ∨ kind = 2 ∧ 7 < value.toNat) ∧
      result = .range) : takeFind kind value s = refuse s result := by
  rcases bad with ⟨above, rfl⟩ | ⟨⟨rfl, above⟩ | ⟨rfl, above⟩, rfl⟩
  · unfold takeFind
    split
    case h_4 => rfl
    all_goals omega
  · exact if_neg (by omega)
  · exact if_neg (by omega)

/-- A reference that passes names the reference of its slot. -/
theorem State.refOf_of_names {ref : Ref} (named : s.names ref = true) : s.refOf ref.handle = ref := by
  have := ((s.names_iff ref).mp named).2
  rw [State.refOf, this]

theorem withReference_named {ref : Byte} {r : Record} (named : s.names (Ref.ofByte ref) = true)
    (at_ref : s.record? (Ref.ofByte ref).handle = some r) (k : Fin 32 → Record → Taken) :
    withReference s ref k = k (Ref.ofByte ref).handle r := by
  rw [withReference, if_pos named, at_ref]

theorem byteAt_cons_zero (b : Byte) (rest : List Byte) : byteAt (b :: rest) 0 = b := rfl

theorem byteAt_cons_succ (b : Byte) (rest : List Byte) (i : Nat) : byteAt (b :: rest) (i + 1) = byteAt rest i := rfl

/-- The 57 bytes of a snapshot one by one (section 11.7), for the bytes of its deadline and of its proving part. -/
theorem Record.snapshot_eq (r : Record) (ref : Ref) {d0 d1 d2 p0 p1 p2 p3 p4 p5 p6 p7 : Byte}
    (deadline : r.deadline.bytes = [d0, d1, d2]) (proving : provingBytes r.proving = [p0, p1, p2, p3, p4, p5, p6, p7]) :
    r.snapshot ref =
      ref.byte :: byteOf r.station.val :: r.callTag :: byteOf r.group.val :: byteOf r.role.code :: byteOf r.state.code ::
      (BitVec.ofNat 16 r.lRun).extractLsb' 0 8 :: (BitVec.ofNat 16 r.lRun).extractLsb' 8 8 ::
      (BitVec.ofNat 16 r.lMin).extractLsb' 0 8 :: (BitVec.ofNat 16 r.lMin).extractLsb' 8 8 ::
      (BitVec.ofNat 16 r.lMax).extractLsb' 0 8 :: (BitVec.ofNat 16 r.lMax).extractLsb' 8 8 ::
      (BitVec.ofNat 16 r.len).extractLsb' 0 8 :: (BitVec.ofNat 16 r.len).extractLsb' 8 8 ::
      (BitVec.ofNat 16 r.p).extractLsb' 0 8 :: (BitVec.ofNat 16 r.p).extractLsb' 8 8 ::
      (BitVec.ofNat 16 r.b).extractLsb' 0 8 :: (BitVec.ofNat 16 r.b).extractLsb' 8 8 ::
      (BitVec.ofNat 16 r.q).extractLsb' 0 8 :: (BitVec.ofNat 16 r.q).extractLsb' 8 8 ::
      (BitVec.ofNat 16 r.k).extractLsb' 0 8 :: (BitVec.ofNat 16 r.k).extractLsb' 8 8 ::
      (BitVec.ofNat 16 r.m).extractLsb' 0 8 :: (BitVec.ofNat 16 r.m).extractLsb' 8 8 ::
      (BitVec.ofInt 16 r.effective).extractLsb' 0 8 :: (BitVec.ofInt 16 r.effective).extractLsb' 8 8 :: r.partsByte ::
      (BitVec.ofNat 16 ((r.pending.map PendingPart.p).getD 0)).extractLsb' 0 8 ::
      (BitVec.ofNat 16 ((r.pending.map PendingPart.p).getD 0)).extractLsb' 8 8 ::
      (BitVec.ofNat 16 ((r.pending.map PendingPart.b).getD 0)).extractLsb' 0 8 ::
      (BitVec.ofNat 16 ((r.pending.map PendingPart.b).getD 0)).extractLsb' 8 8 ::
      byteOf r.c :: byteOf ((r.lean.map Dir.code).getD 0) :: byteOf r.t :: byteOf r.r :: byteOf r.stepSize ::
      byteOf r.slackRun ::
      (BitVec.ofNat 16 r.stepsPaid).extractLsb' 0 8 :: (BitVec.ofNat 16 r.stepsPaid).extractLsb' 8 8 ::
      (BitVec.ofNat 16 r.stepsHauled).extractLsb' 0 8 :: (BitVec.ofNat 16 r.stepsHauled).extractLsb' 8 8 ::
      byteOf ((r.step.map StepInFlight.amount).getD 0) ::
      d0 :: d1 :: d2 :: p0 :: p1 :: p2 :: p3 :: p4 :: p5 :: p6 :: p7 :: causeByte r.faultCause ::
      byteOfBits r.notices.overload r.notices.payLimit r.notices.emergencyReleased r.notices.faultEntered.isSome
        r.notices.tendingReached r.notices.stowed r.notices.haulLimit r.notices.resetHold ::
      byteOfBits r.notices.provingResult false false false false false false false ::
      causeByte r.notices.faultEntered :: [] := by
  unfold Record.snapshot NoticeSet.bytes
  rw [deadline, proving]
  simp only [List.cons_append, List.nil_append, halfOf, signedHalfOf, halfBytes]

theorem getLsbD_partsByte (r : Record) (i : Nat) : r.partsByte.getLsbD i = [r.pending.isSome, r.step.isSome,
    r.step.any fun step => step.dir = .haul, r.proving.isSome, r.tripDeferred, r.overload, r.payLimit,
    r.haulLimit].getD i false := getLsbD_byteOfBits ..

theorem leanByte (lean : Option Dir) :
    byteOf ((lean.map Dir.code).getD 0) = match lean with | none => 0 | some .pay => 1 | some .haul => 2 := by
  cases lean with
  | none => rfl
  | some dir => cases dir <;> rfl

/-- The fields of a deadline in its three bytes (R178). -/
theorem Deadline.fields_of_bytes {d : Deadline} {d0 d1 d2 : Byte} (bytes : d.bytes = [d0, d1, d2]) :
    (d = .absent → d0 = 0 ∧ d2 ++ d1 = (0 : Half)) ∧ (∀ n, d = .running n → d0 = 1 ∧ d2 ++ d1 = BitVec.ofNat 16 n) ∧
      ∀ n, d = .frozen n → d0 = 2 ∧ d2 ++ d1 = BitVec.ofNat 16 n := by
  have three {a : Byte} {v : Half} (e : a :: halfBytes v = [d0, d1, d2]) : d0 = a ∧ d2 ++ d1 = v := by
    simp only [halfBytes, List.cons.injEq] at e
    obtain ⟨rfl, rfl, rfl, -⟩ := e
    exact ⟨rfl, append_halfBytes v⟩
  refine ⟨?_, fun n => ?_, fun n => ?_⟩ <;> rintro rfl <;> exact three bytes

/-- The fields of a proving part in its eight bytes (R14, section 11.7). -/
theorem provingBytes_fields {part : Option ProvingPart} {p0 p1 p2 p3 p4 p5 p6 p7 : Byte}
    (bytes : provingBytes part = [p0, p1, p2, p3, p4, p5, p6, p7]) :
    (part = none → p0 = 0 ∧ p2 ++ p1 = (0 : Half) ∧ p4 ++ p3 = (0 : Half) ∧ p5 = 0 ∧ p7 ++ p6 = (0 : Half)) ∧
      ∀ p, part = some p → p0 = byteOf p.phase.code ∧ p2 ++ p1 = BitVec.ofNat 16 p.counter ∧
        p4 ++ p3 = BitVec.ofInt 16 p.offset ∧ p5 = byteOf p.lastSteps ∧
        p7 ++ p6 = BitVec.ofNat 16 (p.lastInBand.getD 65535) := by
  have zero : (0 : Byte) ++ (0 : Byte) = (0 : Half) := by decide
  refine ⟨?_, fun p => ?_⟩ <;> rintro rfl
  · simp only [provingBytes, List.replicate, List.cons.injEq] at bytes
    obtain ⟨rfl, rfl, rfl, rfl, rfl, rfl, rfl, rfl, -⟩ := bytes
    exact ⟨rfl, zero, zero, rfl, zero⟩
  · simp only [provingBytes, halfOf, signedHalfOf, halfBytes, List.cons_append, List.nil_append, List.cons.injEq] at bytes
    obtain ⟨rfl, rfl, rfl, rfl, rfl, rfl, rfl, rfl, -⟩ := bytes
    exact ⟨rfl, append_halfBytes _, append_halfBytes _, rfl, append_halfBytes _⟩

end Sys2Proof.Machine

namespace Sys2Proof

open Machine

/-- Settles O20: every target request refuses a bad target before anything else. -/
theorem badTargetsAreRefused : Obligations.BadTargetsAreRefused := by
  intro s kind value result waits
  refine ⟨fun bad => ?_, sendRequest_answered waits .retire [2, value] rfl rfl⟩
  have refused := Target.ofBytes_error bad
  have send {code : RequestCode} {body : List Byte} (length : body.length = code.bodyLength)
      (taken : runRequest code body s = refuse s result) :
      sendRequest code body s = .next (s.answering s code result []) := sendRequest_answered waits code body length taken
  exact ⟨send rfl (armAction.onTarget_error refused unlessConfigured s),
    send rfl (disarmAction.onTarget_error refused (fun _ => none) s),
    fun p b => send rfl (by rw [runRequest, takeSet]; exact RecordAction.onTarget_error refused _ _ s),
    send rfl (applyAction.onTarget_error refused (fun _ => none) s),
    send rfl (holdLineAction.onTarget_error refused (fun _ => none) s),
    send rfl (resumeAction.onTarget_error refused (fun _ => none) s), send rfl (takeRelease_error refused s),
    send rfl (takeRetire_error refused s)⟩

/-- Settles O21: the checks of ASSIGN in order, and the record that passes them. -/
theorem assignChecksAndCreates : Obligations.AssignChecksAndCreates := by
  refine ⟨fun s a waits => ⟨fun outside => ?_, fun station group role ordered most => ?_⟩,
    fun s a h waits station group role ordered most few untagged free lowest => ?_⟩
  · exact exec_assign waits a (by rw [takeAssign, place_none outside]; rfl)
  · obtain ⟨place, placed, at_station, -, -⟩ := AssignInRange.place ⟨station, group, role, ordered, most⟩
    have taken := s.stationTaken_iff_of_val at_station a.callTag
    refine ⟨fun busy => exec_assign waits a ?_, fun few untagged full => exec_assign waits a ?_⟩
    · simp only [takeAssign, placed, taken.mpr busy, if_true]
      rfl
    · have clear : ¬ s.stationTaken place.station a.callTag = true := by
        rw [taken]; rintro (two | ⟨h, r, at_h, on, tag⟩)
        · omega
        · exact untagged h r at_h on tag
      simp only [takeAssign, placed, clear, State.lowestFree_none full]
      rfl
  · obtain ⟨place, placed, at_station, at_group, at_role⟩ := AssignInRange.place ⟨station, group, role, ordered, most⟩
    have clear : ¬ s.stationTaken place.station a.callTag = true := by
      rw [s.stationTaken_iff_of_val at_station]; rintro (two | ⟨h, r, at_h, on, tag⟩)
      · omega
      · exact untagged h r at_h on tag
    refine ⟨a.newRecord place, s.putRecord h (a.newRecord place), exec_assign waits a ?_, rfl, (fun h' => s.generation_putRecord h h' _),
      fun h' ne => s.record?_putRecord_ne _ ne, s.record?_putRecord_self h _, at_station, rfl, at_group, at_role, rfl, rfl, rfl,
      rfl, rfl, rfl, rfl, rfl, rfl, rfl, ?_, rfl, rfl, rfl, rfl, rfl, rfl, rfl, rfl, rfl, rfl, rfl, rfl, rfl, rfl, rfl, rfl,
      rfl⟩
    · simp only [takeAssign, placed, clear, State.lowestFree_some free lowest]
      rfl
    · show clampNat 2 255 a.t.toNat = max 2 a.t.toNat
      have byte := a.t.isLt
      unfold clampNat
      omega

/-- Settles O23: FIND replies with the handles of its key, and READ RECORD with the snapshot's bytes. -/
theorem findAndReadRecord : Obligations.FindAndReadRecord := by
  refine ⟨fun s kind value waits => ⟨fun key named => ?_, fun above => ?_, fun outside => ?_⟩,
    fun s ref r waits named at_ref => ?_⟩
  · refine ⟨s.handlesWith fun r => key r = value.toNat, s.handlesWith_sorted _, handlesWith_length s _, fun h => ?_,
      exec_find waits kind value (takeFind_key s named)⟩
    simpa using s.mem_handlesWith (fun r => key r = value.toNat) h
  · exact exec_find waits kind value (takeFind_refused s (.inl ⟨above, rfl⟩))
  · exact exec_find waits kind value (takeFind_refused s (.inr ⟨outside, rfl⟩))
  · obtain ⟨d0, d1, d2, deadline⟩ := List.length_eq_three.mp r.deadline.bytes_length
    obtain ⟨p0, p1, p2, p3, p4, p5, p6, p7, proving⟩ : ∃ p0 p1 p2 p3 p4 p5 p6 p7,
        provingBytes r.proving = [p0, p1, p2, p3, p4, p5, p6, p7] := by
      cases r.proving <;> exact ⟨_, _, _, _, _, _, _, _, rfl⟩
    have answer : takeReadRecord ref s = doneWith s (r.snapshot (Ref.ofByte ref)) := by
      rw [takeReadRecord, withReference_named named at_ref, s.refOf_of_names named]
    have bytes := r.snapshot_eq (Ref.ofByte ref) deadline proving
    have parts := getLsbD_partsByte r
    refine ⟨r.snapshot (Ref.ofByte ref), sendRequest_answered waits .readRecord [ref] rfl answer, r.snapshot_length _, ?_⟩
    rw [bytes]
    simp only [halfAt, Nat.reduceAdd, byteAt_cons_zero, byteAt_cons_succ]
    obtain ⟨absent, running, frozen⟩ := Deadline.fields_of_bytes deadline
    obtain ⟨noPart, part⟩ := provingBytes_fields proving
    have kinds := fun i => getLsbD_byteOfBits r.notices.overload r.notices.payLimit r.notices.emergencyReleased
      r.notices.faultEntered.isSome r.notices.tendingReached r.notices.stowed r.notices.haulLimit r.notices.resetHold i
    have result : byteOfBits r.notices.provingResult false false false false false false false =
        if r.notices.provingResult then 1 else 0 := by cases r.notices.provingResult <;> rfl
    simp only [append_halfBytes, true_and]
    exact ⟨Ref.byte_ofByte ref, parts 0, parts 1, parts 2, parts 3, parts 4, parts 5, parts 6, parts 7, leanByte r.lean, absent,
      running, frozen, noPart, part, rfl, kinds 0, kinds 1, kinds 2, kinds 3, kinds 4, kinds 5, kinds 6, kinds 7, result, rfl⟩

end Sys2Proof
end

section
/-! PROOF. The requests that deal with one record or one station at most: NEXT NOTICE, RELEASE of one line, STATION QUERY, ZERO and
the proving requests; and what a good reply does to its station's entry. -/

namespace Sys2Proof.Machine

variable {s : State}

/-! ### NEXT NOTICE (R161 to R163) -/

/-- The first value that a function gives along the handles. -/
theorem findSome?_finRange {α : Type} {n : Nat} {f : Fin n → Option α} {h : Fin n} {a : α} (found : f h = some a)
    (lowest : ∀ h', h' < h → f h' = none) : (List.finRange n).findSome? f = some a := by
  have first : (List.finRange n).find? (fun h => (f h).isSome) = some h :=
    find?_finRange (by rw [found]; rfl) fun h' below => by rw [lowest h' below]; rfl
  obtain ⟨-, before, after, split, gives⟩ := List.find?_eq_some_iff_append.mp first
  rw [split, List.findSome?_append, List.findSome?_cons, found]
  have nothing : before.findSome? f = none := List.findSome?_eq_none_iff.mpr fun h' mem => by simpa using gives h' mem
  rw [nothing]
  rfl

theorem State.lowestWith_some {h : Fin 32} {r : Record} {test : Record → Bool} (at_h : s.record? h = some r)
    (passes : test r = true) (lowest : ∀ h' r', h' < h → s.record? h' = some r' → test r' = false) :
    s.lowestWith test = some (h, r) := by
  refine findSome?_finRange (h := h) (by rw [at_h, Option.filter_some, if_pos passes]; rfl) fun h' below => ?_
  cases at_h' : s.record? h' with
  | none => rfl
  | some r' => rw [Option.filter_some, lowest h' r' below at_h']; rfl

theorem State.lowestWith_none {test : Record → Bool} (nothing : ((List.finRange 32).any fun h => s.holds h test) = false) :
    s.lowestWith test = none := by
  rw [State.lowestWith, List.findSome?_eq_none_iff]
  intro h mem
  have fails : ∀ r, s.record? h = some r → test r = false := by
    simpa [State.holds, Option.any_eq_false] using List.any_eq_false.mp nothing h mem
  cases at_h : s.record? h with
  | none => rfl
  | some r => rw [Option.filter_some, fails r at_h]; rfl

theorem alertKinds_eq (overload payLimit released fault : Bool) :
    byteOfBits overload payLimit released fault false false false false =
      byteOf (overload.toNat + 2 * payLimit.toNat + 4 * released.toNat + 8 * fault.toNat) := by
  cases overload <;> cases payLimit <;> cases released <;> cases fault <;> rfl

theorem noticeKinds_eq (tending stowed haulLimit resetHold : Bool) :
    byteOfBits false false false false tending stowed haulLimit resetHold =
      byteOf (16 * tending.toNat + 32 * stowed.toNat + 64 * haulLimit.toNat + 128 * resetHold.toNat) := by
  cases tending <;> cases stowed <;> cases haulLimit <;> cases resetHold <;> rfl

theorem provingKind_eq (result : Bool) :
    byteOfBits result false false false false false false false = byteOf result.toNat := by
  cases result <;> rfl

theorem Record.causeByte_alertCause (r : Record) :
    causeByte r.alertCause = byteOf (match r.notices.faultEntered with
      | some cause => cause.code
      | none => if r.state = .fault then (r.faultCause.map FaultCause.code).getD 0 else 0) := by
  rw [causeByte, Record.alertCause]
  cases r.notices.faultEntered with
  | some cause => rfl
  | none =>
    by_cases faulted : r.state = .fault
    · simp only [if_pos faulted]
    · simp only [if_neg faulted, Option.map_none, Option.getD_none]

/-! ### A request that names one record -/

theorem exec_named (waits : s.port.Awaits) (code : RequestCode) (body : List Byte) (length : body.length = code.bodyLength)
    {ref : Byte} {r : Record} {k : Fin 32 → Record → Taken} (named : s.names (Ref.ofByte ref) = true)
    (at_ref : s.record? (Ref.ofByte ref).handle = some r) (runs : runRequest code body s = withReference s ref k)
    {t : State} {result : Result} {out : List Byte}
    (taken : k (Ref.ofByte ref).handle r = (t, { result := result, body := out })) :
    sendRequest code body s = .next (t.answering s code result out) :=
  sendRequest_answered waits code body length (runs.trans ((withReference_named named at_ref k).trans taken))

theorem State.interlocked_iff (s : State) : s.interlocked = true ↔ s.condition .ramp = true ∨ s.berthHold = true := by
  simp [State.interlocked]

theorem LineState.releasable_iff (state : LineState) :
    state.releasable = true ↔ state = .tending ∨ state = .held ∨ state = .fault := by
  cases state <;> simp [LineState.releasable]

theorem State.enterReleasing_eq {h : Fin 32} {r : Record} (at_h : s.record? h = some r) :
    s.enterReleasing h = (s.putRecord h (r.releasing s.config.timeouts.clear)).giveCommand r.station .free :=
  withRecord_some at_h _

/-! ### STATION QUERY and ZERO (R129, R132) -/

theorem DiagKind.ofByte_some {kind : Byte} (named : kind.toNat ≤ 4) :
    ∃ k, DiagKind.ofByte kind = some k ∧ (k = none ↔ kind = 0) ∧ ∀ k', k = some k' → k'.code = kind.toNat := by
  have codes : kind.toNat = 0 ∨ kind.toNat = 1 ∨ kind.toNat = 2 ∨ kind.toNat = 3 ∨ kind.toNat = 4 := by omega
  have zero : kind = 0 ↔ kind.toNat = 0 := BitVec.toNat_inj.symm
  unfold DiagKind.ofByte
  rcases codes with e | e | e | e | e <;> rw [zero, e] <;> simp <;> rfl

theorem DiagKind.ofByte_none {kind : Byte} (above : 4 < kind.toNat) : DiagKind.ofByte kind = none := by
  unfold DiagKind.ofByte
  split
  case h_6 => rfl
  all_goals omega

theorem finOf_byteOf (st : Fin 24) : finOf 24 (byteOf st).toNat = some st := by
  have same : (byteOf st.val).toNat = st.val := by simp [byteOf]; omega
  rw [same, finOf_some st.isLt]

/-- The kind that a STATION QUERY leaves pending, in the words of R129. -/
theorem State.kindAfterQuery_eq {st : Fin 24} {kind : Byte} {k left : Option DiagKind} (none_iff : k = none ↔ kind = 0)
    (code : ∀ k', k = some k' → k'.code = kind.toNat)
    (stands : kind = 0 ∨ s.mapped st = false → left = (s.entry st).pendingKind)
    (asked : kind ≠ 0 → s.mapped st = true → left.map DiagKind.code = some kind.toNat) :
    s.kindAfterQuery st k = left := by
  cases k with
  | none => exact (stands (.inl (none_iff.mp rfl))).symm
  | some k =>
    rw [State.kindAfterQuery]
    split
    · next mapped =>
      have named := asked (fun zero => by simpa using none_iff.mpr zero) mapped
      obtain ⟨k', rfl, same⟩ := Option.map_eq_some_iff.mp named
      have codes : k.code = k'.code := (code k rfl).trans same.symm
      cases k <;> cases k' <;> first | rfl | cases codes
    · next unmapped => exact (stands (.inr (by simpa using unmapped))).symm

/-- The five bytes of a last reply, whether or not there is one. -/
theorem lastReplyBytes_eq (last : Option Frame) : lastReplyBytes last =
    (last.map Frame.flags).getD 0 :: halfOf ((last.map Frame.tension).getD 0) ++ halfOf ((last.map Frame.length).getD 0) := by
  cases last with
  | none => decide
  | some f => rfl

/-- The diagnostic slot's byte of a station report (section 11.7). -/
theorem diagnosticByte_eq (state : DiagState) (kind : Option DiagKind) :
    0#1 ++ BitVec.ofNat 3 ((kind.map DiagKind.code).getD 0) ++ 0#2 ++ BitVec.ofNat 2 state.code =
      byteOf (state.code + 16 * (kind.map DiagKind.code).getD 0) := by
  cases state <;> rcases kind with _ | _ | _ | _ | _ <;> decide

/-- The presence byte of a station report, field by field (section 11.7). -/
theorem presenceByte_fields (heard zeroing toggle : Bool) (misses : BitVec 2) (presence : Presence) :
    let b : Byte := 0#1 ++ BitVec.ofBool heard ++ BitVec.ofBool zeroing ++ BitVec.ofBool toggle ++ misses ++
      BitVec.ofNat 2 presence.code
    (b.extractLsb' 0 2).toNat = presence.code ∧ b.extractLsb' 2 2 = misses ∧ b.getLsbD 4 = toggle ∧ b.getLsbD 5 = zeroing ∧
      b.getLsbD 6 = heard ∧ b.getLsbD 7 = false := by
  revert misses
  cases heard <;> cases zeroing <;> cases toggle <;> cases presence <;> decide

/-- The twelve bytes of a station report one by one. -/
theorem StationEntry.report_eq (e : StationEntry) (st : Fin 24) (left : Option DiagKind) : e.report st left =
    byteOf st.val ::
    (0#1 ++ BitVec.ofBool e.lastReply.isSome ++ BitVec.ofBool e.zeroing ++ BitVec.ofBool e.toggle ++
      BitVec.ofNat 2 e.missCount ++ BitVec.ofNat 2 e.presence.code) ::
    byteOf ((e.command.map Command.code).getD 0) ::
    (e.lastReply.map Frame.flags).getD 0 ::
    (BitVec.ofNat 16 ((e.lastReply.map Frame.tension).getD 0)).extractLsb' 0 8 ::
    (BitVec.ofNat 16 ((e.lastReply.map Frame.tension).getD 0)).extractLsb' 8 8 ::
    (BitVec.ofNat 16 ((e.lastReply.map Frame.length).getD 0)).extractLsb' 0 8 ::
    (BitVec.ofNat 16 ((e.lastReply.map Frame.length).getD 0)).extractLsb' 8 8 ::
    byteOf (e.diagState.code + 16 * (e.diagKind.map DiagKind.code).getD 0) ::
    e.diagValue.extractLsb' 0 8 :: e.diagValue.extractLsb' 8 8 ::
    byteOf ((left.map DiagKind.code).getD 0) :: [] := by
  unfold StationEntry.report
  rw [lastReplyBytes_eq, diagnosticByte_eq]
  simp only [List.cons_append, List.nil_append, halfOf, halfBytes]

/-- ZERO is placed over every command but a FREE (R94). -/
theorem commandPlaced_zero {waiting : Option Command} (notFree : waiting ≠ some .free) : commandPlaced waiting .zero = true := by
  rcases waiting with _ | c
  · rfl
  · cases c <;> first | rfl | exact absurd rfl notFree

/-! ### A good reply at its station's entry (R122) -/

theorem StationEntry.diagnosed_keeps (e : StationEntry) (slot : LinkSlot) (extra : List LinkChar) :
    (e.diagnosed slot extra).presence = e.presence ∧ (e.diagnosed slot extra).missCount = e.missCount ∧
      (e.diagnosed slot extra).lastReply = e.lastReply ∧ (e.diagnosed slot extra).command = e.command ∧
      (e.diagnosed slot extra).toggle = e.toggle ∧ (e.diagnosed slot extra).zeroing = e.zeroing := by
  unfold StationEntry.diagnosed StationEntry.askAgain
  split
  · split
    · split <;> exact ⟨rfl, rfl, rfl, rfl, rfl, rfl⟩
    · exact ⟨rfl, rfl, rfl, rfl, rfl, rfl⟩
  · exact ⟨rfl, rfl, rfl, rfl, rfl, rfl⟩

theorem StationEntry.goodReply_presence (e : StationEntry) (slot : LinkSlot) (f : Frame) (extra : List LinkChar) :
    (e.goodReply slot f extra).presence = .present ∧ (e.goodReply slot f extra).missCount = 0 ∧
      (e.goodReply slot f extra).lastReply = some f := by
  obtain ⟨presence, misses, last, -⟩ :=
    ((((e.answered f).delivered slot f).resynced f).zeroSeen f).diagnosed_keeps slot extra
  rw [StationEntry.goodReply, presence, misses, last]
  unfold StationEntry.zeroSeen StationEntry.resynced StationEntry.delivered StationEntry.answered
  refine ⟨?_, ?_, ?_⟩ <;> split <;> split <;> split <;> first | rfl | (split <;> rfl)

/-- Whether a good reply delivers the command of its slot (R125, R126). -/
def StationEntry.delivers (e : StationEntry) (slot : LinkSlot) (f : Frame) : Bool :=
  match slot.kind with
  | .command _ toggle => !slot.replaced && e.command.isSome && f.toggle = toggle
  | _ => false

theorem StationEntry.delivered_eq (e : StationEntry) (slot : LinkSlot) (f : Frame) :
    e.delivered slot f = if e.delivers slot f then { e with command := none, toggle := !e.toggle } else e := by
  unfold StationEntry.delivered StationEntry.delivers
  cases slot.kind <;> rfl

/-- Command, toggle and zeroing after a good reply (R125 to R127, R133). -/
theorem StationEntry.goodReply_command (e : StationEntry) (slot : LinkSlot) (f : Frame) (extra : List LinkChar) :
    (e.goodReply slot f extra).command = (if e.delivers slot f then none else e.command) ∧
      (e.goodReply slot f extra).toggle =
        (if (e.goodReply slot f extra).command.isNone then !f.toggle else e.toggle) ∧
      (e.goodReply slot f extra).zeroing =
        (e.zeroing && !((e.goodReply slot f extra).command.isNone && f.zeroDone)) := by
  obtain ⟨-, -, -, command, toggle, zeroing⟩ :=
    ((((e.answered f).delivered slot f).resynced f).zeroSeen f).diagnosed_keeps slot extra
  rw [StationEntry.goodReply, command, toggle, zeroing, StationEntry.delivered_eq]
  have same : (e.answered f).delivers slot f = e.delivers slot f := rfl
  rw [same]
  unfold StationEntry.zeroSeen StationEntry.resynced StationEntry.answered
  cases e.delivers slot f <;> cases e.command <;> cases e.zeroing <;> cases f.zeroDone <;> simp

/-- The diagnostic slot and the pending kind of an entry are as they were before the diagnostic step (R122, step 5). -/
theorem StationEntry.goodReply_diagnosed (e : StationEntry) (slot : LinkSlot) (f : Frame) (extra : List LinkChar) :
    ∃ e₀ : StationEntry, e.goodReply slot f extra = e₀.diagnosed slot extra ∧ e₀.diagState = e.diagState ∧
      e₀.diagKind = e.diagKind ∧ e₀.diagValue = e.diagValue ∧ e₀.pendingKind = e.pendingKind := by
  refine ⟨_, rfl, ?_⟩
  rw [StationEntry.delivered_eq]
  unfold StationEntry.zeroSeen StationEntry.resynced StationEntry.answered
  refine ⟨?_, ?_, ?_, ?_⟩ <;> split <;> split <;> split <;> rfl

theorem exec_slotEnd (s : State) (inTime : Bool) (chars : List LinkChar) :
    exec (.slotEnd inTime chars) s = .next (s.endSlot inTime chars) := rfl

theorem State.Receives.endSlot {inTime : Bool} {chars : List LinkChar} {slot : LinkSlot} {f : Frame} {extra : List LinkChar}
    (good : s.Receives inTime chars slot f extra) : s.endSlot inTime chars =
      match s.engagedOn s.scan.station with
      | some h => (s.afterReply slot f extra).sample h f
      | none => s.afterReply slot f extra := by
  obtain ⟨inProgress, worked, mapped, judged⟩ := good
  have works : (decide (slot.kind = .silent) || !s.mapped s.scan.station) = false := by simp [worked, mapped]
  have works' : (decide (slot.kind = .silent) || !s.slotOver.mapped s.scan.station) = false := works
  rw [State.endSlot, inProgress]
  show (if (decide (slot.kind = .silent) || !s.slotOver.mapped s.scan.station) = true then s.slotOver
    else match slot.judge inTime chars with
      | some (f, extra) => s.slotOver.goodReply s.scan.station slot f extra
      | none => s.slotOver.miss s.scan.station slot) = _
  rw [works', judged]
  rfl

theorem State.Misses.endSlot {inTime : Bool} {chars : List LinkChar} {slot : LinkSlot}
    (missed : s.Misses inTime chars slot) : s.endSlot inTime chars = s.slotOver.miss s.scan.station slot := by
  obtain ⟨inProgress, worked, mapped, judged⟩ := missed
  have works : (decide (slot.kind = .silent) || !s.slotOver.mapped s.scan.station) = false := by
    have mapped' : s.slotOver.mapped s.scan.station = true := mapped
    simp [worked, mapped']
  rw [State.endSlot, inProgress]
  show (if (decide (slot.kind = .silent) || !s.slotOver.mapped s.scan.station) = true then s.slotOver
    else match slot.judge inTime chars with
      | some (f, extra) => s.slotOver.goodReply s.scan.station slot f extra
      | none => s.slotOver.miss s.scan.station slot) = _
  rw [works, judged]
  rfl

theorem byteOf_diagKind (k : DiagKind) : (byteOf k.code).toNat = k.code := by cases k <;> rfl

theorem byteOf_toNat (b : Byte) : byteOf b.toNat = b := by rw [byteOf, BitVec.ofNat_toNat, BitVec.setWidth_eq]

/-! ### The proving requests (R150) -/

theorem runRequest_proveStart (ref push : Byte) (settle : Half) (increment direction dwell : Byte) (s : State) :
    runRequest .proveStart ([ref, push] ++ halfBytes settle ++ [increment, direction, dwell]) s =
      takeProveStart ref push settle increment direction dwell s := by
  simp [runRequest, byteAt, halfAt, halfBytes, append_halfBytes]

theorem oneBitCode_some {b : Byte} (inside : b.toNat ≤ 1) : oneBitCode b = some (decide (b.toNat = 1)) := by
  have codes : b.toNat = 0 ∨ b.toNat = 1 := by omega
  unfold oneBitCode
  rcases codes with e | e <;> rw [e] <;> rfl

theorem oneBitCode_none {b : Byte} (above : 1 < b.toNat) : oneBitCode b = none := by
  unfold oneBitCode
  split
  case h_3 => rfl
  all_goals omega

theorem newProving_eq {direction : Byte} (inside : direction.toNat ≤ 1) (push : Byte) (settle : Half) (increment dwell : Byte) :
    newProving push settle increment (!decide (direction.toNat = 1)) (decide (dwell.toNat = 1)) =
      { pushCount := max 1 (min 63 push.toNat), settleCount := max 8 (min 1000 settle.toNat),
        increment := max 1 (min 100 increment.toNat), raises := decide (direction = 0), dwells := decide (dwell = 1),
        phase := .push, counter := 0, offset := 0, lastSteps := 0, lastInBand := none } := by
  have raises : (!decide (direction.toNat = 1)) = decide (direction = 0) := by
    have zero : direction = 0 ↔ direction.toNat = 0 := BitVec.toNat_inj.symm
    rw [← decide_not, decide_eq_decide, zero]
    omega
  have dwells : decide (dwell.toNat = 1) = decide (dwell = 1) := by rw [decide_eq_decide, ← BitVec.toNat_inj]; rfl
  rw [newProving, raises, dwells]
  rfl

end Sys2Proof.Machine

namespace Sys2Proof

open Machine

/-- Settles O24: the report goes to the lowest alert, else to the lowest notice, else it is NONE. -/
theorem nextNoticeReportsTheLowestRecord : Obligations.NextNoticeReportsTheLowestRecord := by
  intro s waits
  have answer {t : State} {out : List Byte} (taken : takeNextNotice s = doneWith t out) :
      exec .nextNotice s = .next (t.answering s .nextNotice .done out) := sendRequest_answered waits .nextNotice [] rfl taken
  have noAlert (clear : s.alertPending = false) : s.lowestWith (fun r => r.notices.anyAlert) = none :=
    State.lowestWith_none clear
  refine ⟨fun h r at_h alert lowest => answer ?_, fun clear enabled h r at_h notice lowest => answer ?_,
    fun clear silent => answer ?_⟩
  · rw [takeNextNotice, State.lowestWith_some at_h alert lowest]
    show doneWith _ (r.alertReport (s.refOf h)) = _
    rw [Record.alertReport, alertKinds_eq, r.causeByte_alertCause]
    rfl
  · rw [takeNextNotice, noAlert clear, enabled, if_pos rfl, State.lowestWith_some at_h notice lowest]
    show doneWith _ (r.noticeReport (s.refOf h)) = _
    rw [Record.noticeReport, ← noticeKinds_eq, ← provingKind_eq]
    rfl
  · have none' : (if s.noticesEnable then s.lowestWith fun r => r.notices.anyNotice else none) = none := by
      rcases silent with off | none'
      · rw [off]; rfl
      · rw [State.lowestWith_none none', ite_self]
    rw [takeNextNotice, noAlert clear, none']
    rfl

/-- Settles O31: the state is weighed first, then the interlocks, and then the record enters RELEASING. -/
theorem releaseLetsOneLineGo : Obligations.ReleaseLetsOneLineGo := by
  intro s ref r waits named at_ref
  have answer {t : State} {result : Result} {out : List Byte} taken :=
    exec_named (t := t) (result := result) (out := out) waits .release [0, ref] rfl named at_ref (takeRelease_reference s ref) taken
  have permitted := r.state.releasable_iff
  have interlock := s.interlocked_iff
  refine ⟨fun notTending notHeld notFault => answer ?_, fun lets => ⟨fun active => answer ?_, fun ramp hold => answer ?_⟩⟩
  · have no : r.state.releasable = false := by
      rw [← Bool.not_eq_true, permitted]
      rintro (e | e | e) <;> contradiction
    simp only [no]
    rfl
  · simp only [permitted.mpr lets, interlock.mpr active]
    rfl
  · have off : s.interlocked = false := by rw [State.interlocked, ramp, hold]; rfl
    simp only [permitted.mpr lets, off, State.enterReleasing_eq at_ref]
    rfl

/-- Settles O34: the checks of STATION QUERY and of ZERO in order, and what each does where they pass. -/
theorem stationQueryAndZero : Obligations.StationQueryAndZero := by
  have answer {s t : State} {result : Result} {out : List Byte} {station kind : Byte} (waits : s.port.Awaits)
      (taken : takeStationQuery station kind s = (t, { result := result, body := out })) :
      exec (.stationQuery station kind) s = .next (t.answering s .stationQuery result out) :=
    sendRequest_answered waits .stationQuery [station, kind] rfl taken
  have zero {s t : State} {result : Result} {out : List Byte} {station : Byte} (waits : s.port.Awaits)
      (taken : takeZero station s = (t, { result := result, body := out })) :
      exec (.zero station) s = .next (t.answering s .zero result out) :=
    sendRequest_answered waits .zero [station] rfl taken
  refine ⟨⟨fun s station kind waits => ⟨fun outside named => ?_, fun inside above => ?_, fun outside above => ?_⟩,
    fun s st kind left waits named stands asked => ?_⟩, fun s station waits outside => ?_, fun s st waits =>
      ⟨fun off => ?_, fun on => ⟨fun gone => ?_, fun present => ⟨fun busy => ?_, fun still => ⟨fun engaged => ?_,
        fun free => ⟨fun moves => ?_, fun notFree quiet => ?_⟩⟩⟩⟩⟩⟩
  · obtain ⟨k, kinds, -⟩ := DiagKind.ofByte_some named
    exact answer waits (by rw [takeStationQuery, finOf_none outside, kinds]; rfl)
  · exact answer waits (by
      rw [takeStationQuery, finOf_some (Nat.lt_succ_of_le inside), DiagKind.ofByte_none above]; rfl)
  · cases first : Config.stationRefusedFirst station kind with
    | true => exact ⟨.range, .inl rfl, answer waits (by
        rw [takeStationQuery, finOf_none outside, DiagKind.ofByte_none above, first]; rfl)⟩
    | false => exact ⟨.badRequest, .inr rfl, answer waits (by
        rw [takeStationQuery, finOf_none outside, DiagKind.ofByte_none above, first]; rfl)⟩
  · obtain ⟨k, kinds, none_iff, code⟩ := DiagKind.ofByte_some named
    have leaves := State.kindAfterQuery_eq none_iff code stands asked
    refine ⟨(s.entry st).report st left, answer waits ?_, StationEntry.report_length .., ?_⟩
    · rw [takeStationQuery, finOf_byteOf, kinds]
      show doneWith (s.putEntry st { s.entry st with pendingKind := s.kindAfterQuery st k })
        ((s.entry st).report st (s.kindAfterQuery st k)) = _
      rw [leaves]
      rfl
    · obtain ⟨presence, misses, toggle, zeroing, heard, spare⟩ := presenceByte_fields (s.entry st).lastReply.isSome
        (s.entry st).zeroing (s.entry st).toggle (BitVec.ofNat 2 (s.entry st).missCount) (s.entry st).presence
      rw [StationEntry.report_eq]
      simp only [halfAt, Nat.reduceAdd, byteAt_cons_zero, byteAt_cons_succ]
      simp only [append_halfBytes, true_and, and_true]
      exact ⟨presence, misses, toggle, zeroing, heard, spare⟩
  · exact zero waits (by rw [takeZero, finOf_none outside]; rfl)
  · exact zero waits (by simp only [takeZero, finOf_byteOf, off]; rfl)
  · exact zero waits (by simp [takeZero, refuse, finOf_byteOf, on, gone])
  · exact zero waits (by simp only [takeZero, finOf_byteOf, on, present, busy]; rfl)
  · have taken : (s.engagedOn st).isSome = true := by
      rw [Option.isSome_iff_ne_none, Ne, s.engagedOn_none_iff]
      obtain ⟨h, r, at_h, on', is⟩ := engaged
      exact fun none' => by simp [none' h r at_h on'] at is
    exact zero waits (by simp [takeZero, refuse, finOf_byteOf, on, present, still, taken])
  · have none' := (s.engagedOn_none_iff st).mpr free
    have busy : ((s.entry st).command = some .free || (s.entry st).lastShows Frame.moving) = true := by
      rcases moves with free' | ⟨f, last, moving⟩
      · simp [free']
      · simp [StationEntry.lastShows, last, Frame.moving, moving]
    exact zero waits (by simp only [takeZero, finOf_byteOf, on, present, still, none', busy]; rfl)
  · have none' := (s.engagedOn_none_iff st).mpr free
    have calm : ((s.entry st).command = some .free || (s.entry st).lastShows Frame.moving) = false := by
      cases last : (s.entry st).lastReply with
      | none => simp [StationEntry.lastShows, last, notFree]
      | some f =>
        have still' := quiet f last
        simp [StationEntry.lastShows, last, notFree, Frame.moving, still', -BitVec.getLsbD_eq_getElem]
    refine ⟨_, rfl, ?_, zero waits (by
      simp only [takeZero, finOf_byteOf, on, present, still, none', calm]; rfl)⟩
    rw [State.entry_giveCommand, State.entry_putEntry_self, if_pos ⟨rfl, commandPlaced_zero notFree⟩]

/-- Settles O35: the checks of the proving requests in order, and what each does where they pass. -/
theorem provingRequestsCheckAndAct : Obligations.ProvingRequestsCheckAndAct := by
  refine ⟨fun s ref push settle increment direction dwell r waits named at_ref => ?_, fun s ref r waits named at_ref => ?_⟩
  · have answer {t : State} {result : Result} {out : List Byte}
        (taken : takeProveStart ref push settle increment direction dwell s = (t, { result := result, body := out })) :
        exec (.proveStart ref push settle increment direction dwell) s = .next (t.answering s .proveStart result out) :=
      sendRequest_answered waits .proveStart ([ref, push] ++ halfBytes settle ++ [increment, direction, dwell]) rfl
        ((runRequest_proveStart ref push settle increment direction dwell s).trans taken)
    refine ⟨fun above => answer ?_, fun inside inside' => ⟨fun not => answer ?_, fun tends still => answer ?_⟩⟩
    · rw [takeProveStart, withReference_named named at_ref]
      rcases above with above | above
      · rw [oneBitCode_none above]; rfl
      · rw [oneBitCode_none above]; cases oneBitCode direction <;> rfl
    · rw [takeProveStart, withReference_named named at_ref, oneBitCode_some inside, oneBitCode_some inside']
      by_cases tends : r.state = .tending
      · have part : r.proving.isSome = true := Option.isSome_iff_ne_none.mpr (not.resolve_left (not_not_intro tends))
        simp only [tends, part]
        rfl
      · exact if_pos tends
    · rw [takeProveStart, withReference_named named at_ref, oneBitCode_some inside, oneBitCode_some inside']
      simp only [tends, still]
      rw [newProving_eq inside]
      rfl
  · have releases {t : State} {result : Result} {out : List Byte}
        (taken : takeProveRelease ref s = (t, { result := result, body := out })) :
        exec (.proveRelease ref) s = .next (t.answering s .proveRelease result out) :=
      sendRequest_answered waits .proveRelease [ref] rfl taken
    have stops {t : State} {result : Result} {out : List Byte}
        (taken : takeProveStop ref s = (t, { result := result, body := out })) :
        exec (.proveStop ref) s = .next (t.answering s .proveStop result out) :=
      sendRequest_answered waits .proveStop [ref] rfl taken
    rw [takeProveRelease, withReference_named named at_ref] at releases
    rw [takeProveStop, withReference_named named at_ref] at stops
    refine ⟨fun none' => ⟨releases ?_, stops ?_⟩, fun p part => ⟨fun notDwell => releases ?_, fun dwells => releases ?_,
      stops ?_⟩⟩
    · rw [none']; rfl
    · rw [none']; rfl
    · rw [part]; exact if_neg notDwell
    · rw [part]; exact if_pos dwells
    · rw [part]; rfl

/-- Settles O40: the entry after a good reply, field by field. -/
theorem goodReplyUpdatesTheStation : Obligations.GoodReplyUpdatesTheStation := by
  rintro s inTime chars slot f extra e good rfl
  refine ⟨fun nobody => by rw [exec_slotEnd, good.endSlot, nobody], ?_⟩
  rintro e' rfl
  rw [State.afterReply, State.entry_putEntry_self]
  obtain ⟨presence, misses, last⟩ := (s.entry s.scan.station).goodReply_presence slot f extra
  obtain ⟨command, toggle, zeroing⟩ := (s.entry s.scan.station).goodReply_command slot f extra
  obtain ⟨e₀, diagnosed, state, kind, value, pending⟩ := (s.entry s.scan.station).goodReply_diagnosed slot f extra
  refine ⟨presence, misses, last, fun c toggle sent stands shows => ?_, fun undelivered => ?_, fun empty => ?_,
    fun waits => ?_, fun empty shows => ?_, fun kept => ?_, fun noQuery => ?_, fun k query => ⟨fun v carries => ?_,
      fun other => ?_⟩⟩
  · rw [command]
    cases waiting : (s.entry s.scan.station).command <;>
      simp [StationEntry.delivers, sent, stands, Frame.toggle, shows, waiting, -BitVec.getLsbD_eq_getElem]
  · rw [command, if_neg]
    rw [StationEntry.delivers]
    split
    · next c toggle sent =>
      rcases undelivered c toggle sent with replaced | other
      · simp [replaced]
      · simp [Frame.toggle, other, -BitVec.getLsbD_eq_getElem]
    · exact Bool.false_ne_true
  · rw [toggle, empty]; rfl
  · rw [toggle, if_neg (by simpa using waits)]
  · rw [zeroing, empty, Frame.zeroDone, shows]; simp
  · rw [zeroing]
    rcases kept with waits | quiet
    · rw [Option.isNone_eq_false_iff.mpr (Option.isSome_iff_ne_none.mpr waits)]; simp
    · rw [Frame.zeroDone, quiet]; simp
  · rw [diagnosed, StationEntry.diagnosed]
    split
    · next k query => exact absurd query (noQuery k)
    · exact ⟨state, kind, value, pending⟩
  · rw [diagnosed, StationEntry.diagnosed, query]
    simp only [carries, byteOf_diagKind, if_true, pending, and_self]
  · rw [diagnosed, StationEntry.diagnosed, query]
    have again : (e₀.askAgain k).diagState = (s.entry s.scan.station).diagState ∧
        (e₀.askAgain k).diagKind = (s.entry s.scan.station).diagKind ∧
        (e₀.askAgain k).diagValue = (s.entry s.scan.station).diagValue ∧
        (e₀.askAgain k).pendingKind = some ((s.entry s.scan.station).pendingKind.getD k) :=
      ⟨state, kind, value, by rw [← pending]; rfl⟩
    cases carried : diagnosticFrame extra with
    | none => exact again
    | some pair =>
      obtain ⟨code, v⟩ := pair
      have differs : ¬ code.toNat = k.code := fun same => other v (by rw [carried, ← same, byteOf_toNat])
      simpa only [if_neg differs] using again

end Sys2Proof
end

section
/-! PROOF. How an event that rewrites records and gives commands one record after another comes to be said in one: the rules
by which `Dealt` and `CommandsGiven` are built up. -/

namespace Sys2Proof.Machine

variable {s t u : State}

/-! ### Commands given (R94) -/

/-- A command given twice over is given once. -/
theorem StationEntry.given_given (e : StationEntry) (c : Command) : (e.given c).given c = e.given c := by
  by_cases placed : commandPlaced e.command c = true
  · simp only [StationEntry.given, if_pos placed, ite_self]
  · simp only [StationEntry.given, if_neg placed]

/-- What it takes to place a command a second time it took to place it once. -/
theorem StationEntry.placed_given (e : StationEntry) (c : Command) :
    (commandPlaced e.command c || commandPlaced (e.given c).command c) = commandPlaced e.command c := by
  by_cases placed : commandPlaced e.command c = true
  · rw [placed, Bool.true_or]
  · rw [StationEntry.given, if_neg placed, Bool.or_self]

/-- A scan in whose slot in progress, if there is one, a command has been replaced or not (R126). -/
def Scan.marked (scan : Scan) (replaced : Bool) : Scan :=
  { scan with slot := scan.slot.map fun slot => { slot with replaced := slot.replaced || replaced } }

theorem Scan.marked_false (scan : Scan) : scan.marked false = scan := by
  obtain ⟨station, _ | slot⟩ := scan <;> simp [Scan.marked]

theorem Scan.marked_marked (scan : Scan) (a b : Bool) : (scan.marked a).marked b = scan.marked (a || b) := by
  obtain ⟨station, _ | slot⟩ := scan <;> simp [Scan.marked, Bool.or_assoc]

theorem State.entry_giveCommand_given (s : State) (st st' : Fin 24) (c : Command) :
    (s.giveCommand st c).entry st' = if st' = st then (s.entry st).given c else s.entry st' := by
  rw [State.entry_giveCommand, StationEntry.given]
  by_cases same : st' = st
  · subst same; simp
  · simp [same]

theorem State.scan_giveCommand (s : State) (st : Fin 24) (c : Command) : (s.giveCommand st c).scan =
    s.scan.marked (s.scan.station = st && commandPlaced (s.entry st).command c) := by
  cases placed : commandPlaced (s.entry st).command c with
  | true =>
    rw [State.giveCommand_placed placed]
    by_cases here : s.scan.station = st
    · simp [here, Scan.marked]
    · simp [here, Scan.marked_false]
  | false => rw [State.giveCommand_discarded placed, Bool.and_false, Scan.marked_false]

theorem State.CommandsGiven.marked {given : Fin 24 → Option Command} (commands : s.CommandsGiven t given) :
    t.scan = s.scan.marked ((given s.scan.station).any (commandPlaced (s.entry s.scan.station).command)) := commands.scan

theorem State.CommandsGiven.refl (s : State) : s.CommandsGiven s fun _ => none :=
  ⟨fun _ => rfl, s.scan.marked_false.symm⟩

theorem State.CommandsGiven.of_tables {given : Fin 24 → Option Command} (commands : s.CommandsGiven t given)
    (stations : u.stations = t.stations) (scan : u.scan = t.scan) : s.CommandsGiven u given where
  entries st := by
    have same : u.entry st = t.entry st := by rw [State.entry, State.entry, stations]
    rw [same, commands.entries st]
  scan := by rw [scan, commands.scan]

/-- Commands given after commands given: where both give one for a station it is the same. -/
theorem State.CommandsGiven.trans {given given' : Fin 24 → Option Command} (first : s.CommandsGiven t given)
    (second : t.CommandsGiven u given') (agree : ∀ st c c', given st = some c → given' st = some c' → c = c') :
    s.CommandsGiven u fun st => (given st).or (given' st) where
  entries st := by
    rw [second.entries, first.entries]
    cases one : given st with
    | none => cases given' st <;> rfl
    | some c =>
      cases two : given' st with
      | none => rfl
      | some c' =>
        obtain rfl := agree st c c' one two
        exact StationEntry.given_given _ c
  scan := by
    have station : t.scan.station = s.scan.station := by rw [first.scan]
    rw [second.marked, station, first.marked, Scan.marked_marked, first.entries]
    show _ = s.scan.marked _
    refine congrArg s.scan.marked ?_
    cases one : given s.scan.station with
    | none => rfl
    | some c =>
      cases two : given' s.scan.station with
      | none => simp
      | some c' =>
        obtain rfl := agree _ c c' one two
        exact StationEntry.placed_given _ c

theorem State.commandsGiven_giveCommand (s : State) (st : Fin 24) (c : Command) :
    s.CommandsGiven (s.giveCommand st c) fun st' => if st' = st then some c else none where
  entries st' := by
    rw [State.entry_giveCommand_given]
    by_cases same : st' = st
    · subst same; simp
    · simp [same]
  scan := by
    rw [State.scan_giveCommand]
    show _ = s.scan.marked _
    by_cases here : s.scan.station = st <;> simp [here]

/-! ### Records dealt with -/

theorem State.Dealt.refl (s : State) : s.Dealt s (fun _ r => r) fun _ => none :=
  ⟨fun h => by simp, fun _ => rfl, .refl s, rfl⟩

theorem State.Dealt.congr {f f' : Fin 32 → Record → Record} {g g' : Fin 24 → Option Command} (dealt : s.Dealt t f g)
    (rewrites : ∀ h r, s.record? h = some r → f h r = f' h r) (gives : ∀ st, g st = g' st) : s.Dealt t f' g' := by
  obtain rfl : g = g' := funext gives
  refine ⟨fun h => ?_, dealt.generations, dealt.commands, dealt.rest⟩
  rw [dealt.records]
  cases at_h : s.record? h with
  | none => rfl
  | some r => exact congrArg some (rewrites h r at_h)

theorem State.Dealt.trans {f f' : Fin 32 → Record → Record} {g g' : Fin 24 → Option Command} (first : s.Dealt t f g)
    (second : t.Dealt u f' g') (agree : ∀ st c c', g st = some c → g' st = some c' → c = c') :
    s.Dealt u (fun h r => f' h (f h r)) fun st => (g st).or (g' st) where
  records h := by rw [second.records, first.records, Option.map_map]; rfl
  generations h := (second.generations h).trans (first.generations h)
  commands := first.commands.trans second.commands agree
  rest := by rw [second.rest, first.rest]

/-- A command given and a record written do not meet. -/
theorem State.giveCommand_putRecord (s : State) (h : Fin 32) (r : Record) (st : Fin 24) (c : Command) :
    (s.putRecord h r).giveCommand st c = (s.giveCommand st c).putRecord h r := by
  unfold State.giveCommand
  show (if commandPlaced (s.entry st).command c then _ else _) = _
  split <;> rfl

/-- One record rewritten, and a command given for its station. -/
theorem State.dealt_deal {h : Fin 32} {r : Record} (at_h : s.record? h = some r) (new : Record) (st : Fin 24)
    (c : Option Command) : s.Dealt ((s.putRecord h new).giving st c) (fun h' r' => if h' = h then new else r')
      fun st' => if st' = st then c else none := by
  have records : ∀ h', (s.putRecord h new).record? h' = (s.record? h').map fun r' => if h' = h then new else r' := by
    intro h'
    rw [State.record?_putRecord]
    by_cases same : h' = h
    · subst same; simp [at_h]
    · simp [same]
  cases c with
  | none =>
    refine ⟨records, fun h' => s.generation_putRecord h h' new, ?_, rfl⟩
    simp only [ite_self]
    exact (State.CommandsGiven.refl s).of_tables rfl rfl
  | some c =>
    obtain ⟨stations, scan, gives, -⟩ := (s.putRecord h new).giveCommand_cases st c
    refine ⟨fun h' => ?_, fun h' => ?_, ?_, ?_⟩
    · show ((s.putRecord h new).giveCommand st c).record? h' = _
      rw [State.record?_giveCommand, records]
    · show ((s.putRecord h new).giveCommand st c).generation h' = _
      rw [State.generation_giveCommand, State.generation_putRecord]
    · have same := s.commandsGiven_giveCommand st c
      show s.CommandsGiven ((s.putRecord h new).giveCommand st c) _
      rw [State.giveCommand_putRecord]
      exact same.of_tables rfl rfl
    · show (s.putRecord h new).giveCommand st c = _
      rw [State.giving, gives]
      rfl

/-- The command that a pass over some records gives for a station, where `cmd` is what a record's turn gives for its own. -/
def State.commandFrom (s : State) (cmd : Fin 32 → Record → Option Command) (l : List (Fin 32)) (st : Fin 24) :
    Option Command :=
  l.findSome? fun h => (s.record? h).bind fun r => if r.station = st then cmd h r else none

theorem State.commandFrom_some {cmd : Fin 32 → Record → Option Command} {l : List (Fin 32)} {st : Fin 24} {c : Command}
    (gives : s.commandFrom cmd l st = some c) : ∃ h ∈ l, ∃ r, s.record? h = some r ∧ r.station = st ∧ cmd h r = some c := by
  obtain ⟨h, mem, found⟩ := List.exists_of_findSome?_eq_some gives
  obtain ⟨r, at_h, turn⟩ := Option.bind_eq_some_iff.mp found
  obtain ⟨on, turn⟩ : r.station = st ∧ cmd h r = some c := by
    by_cases on : r.station = st
    · exact ⟨on, by rwa [if_pos on] at turn⟩
    · rw [if_neg on] at turn; cases turn
  exact ⟨h, mem, r, at_h, on, turn⟩

/-- A pass over some records, each once, which rewrites each record by `rewrite` and gives `cmd` for its station. -/
structure State.Passed (s u : State) (rewrite : Fin 32 → Record → Record) (cmd : Fin 32 → Record → Option Command)
    (l : List (Fin 32)) : Prop where
  dealt : s.Dealt u (fun h r => if h ∈ l then rewrite h r else r) (s.commandFrom cmd l)

/-- Where a pass has not been, a record stands as it did. -/
theorem State.Passed.record? {rewrite : Fin 32 → Record → Record} {cmd : Fin 32 → Record → Option Command}
    {l : List (Fin 32)} (passed : s.Passed u rewrite cmd l) {h : Fin 32} (notYet : h ∉ l) : u.record? h = s.record? h := by
  rw [passed.dealt.records]
  simp [notYet]

/-- A pass of turns: the turn of each record, in any state that the turns before it leave, deals with that record; and
commands for one station agree. Then so does every first part of the pass. -/
theorem State.passed_foldl {rewrite : Fin 32 → Record → Record} {cmd : Fin 32 → Record → Option Command}
    {act : State → Fin 32 → State} (l : List (Fin 32)) (nodup : l.Nodup)
    (agree : ∀ h ∈ l, ∀ h' ∈ l, ∀ r r' c c', s.record? h = some r → s.record? h' = some r' → r.station = r'.station →
      cmd h r = some c → cmd h' r' = some c' → c = c')
    (free : ∀ u h, s.record? h = none → u.record? h = none → act u h = u)
    (acts : ∀ before h r u, (∃ after, l = before ++ h :: after) → s.Passed u rewrite cmd before → s.record? h = some r →
      u.record? h = some r → act u h = (u.putRecord h (rewrite h r)).giving r.station (cmd h r)) :
    ∀ before after, l = before ++ after → s.Passed (before.foldl act s) rewrite cmd before := by
  intro before
  induction before using List.reverseRecOn with
  | nil => exact fun _ _ => ⟨(State.Dealt.refl s).congr (fun _ _ _ => by simp) fun _ => rfl⟩
  | append_singleton before h ih =>
    intro after split
    rw [List.append_assoc, List.singleton_append] at split
    have passed := ih (h :: after) split
    have fresh : h ∉ before := by
      rw [split] at nodup
      exact fun mem => (List.nodup_append.mp nodup).2.2 h mem h (List.mem_cons_self ..) rfl
    have stands := passed.record? fresh
    rw [List.foldl_append, List.foldl_cons, List.foldl_nil]
    have commands : ∀ st, s.commandFrom cmd (before ++ [h]) st =
        (s.commandFrom cmd before st).or (s.commandFrom cmd [h] st) := fun st => List.findSome?_append
    cases at_h : s.record? h with
    | none =>
      have nothing : ∀ st, s.commandFrom cmd [h] st = none := by intro st; simp [State.commandFrom, at_h]
      rw [free _ h at_h (stands.trans at_h)]
      refine ⟨passed.dealt.congr (fun h' r' at_h' => ?_) fun st => by rw [commands, nothing, Option.or_none]⟩
      have other : h' ≠ h := by rintro rfl; rw [at_h] at at_h'; cases at_h'
      simp [other]
    | some r =>
      have gives : ∀ st, s.commandFrom cmd [h] st = if st = r.station then cmd h r else none := by
        intro st
        by_cases on : r.station = st
        · subst on; simp [State.commandFrom, at_h]
        · simp [State.commandFrom, at_h, on, Ne.symm on]
      rw [acts before h r _ ⟨after, split⟩ passed at_h (stands.trans at_h)]
      have turn := State.dealt_deal (stands.trans at_h) (rewrite h r) r.station (cmd h r)
      refine ⟨(passed.dealt.trans turn fun st c c' first second => ?_).congr (fun h' r' at_h' => ?_) fun st => by
        rw [commands, gives]⟩
      · obtain ⟨h', mem, r', at_h', on, gave⟩ := State.commandFrom_some first
        obtain ⟨on', gave'⟩ : st = r.station ∧ cmd h r = some c' := by
          by_cases on' : st = r.station
          · exact ⟨on', by rwa [if_pos on'] at second⟩
          · rw [if_neg on'] at second; cases second
        have mem' : h' ∈ l := by rw [split]; exact List.mem_append_left _ mem
        have mem'' : h ∈ l := by rw [split]; exact List.mem_append_right _ (List.mem_cons_self ..)
        exact agree h' mem' h mem'' r' r c c' at_h' at_h (on.trans on') gave gave'
      · by_cases same : h' = h
        · subst same
          rw [at_h] at at_h'
          obtain rfl := Option.some.inj at_h'
          simp
        · simp [same]

/-- A pass over every record whose turns depend on nothing that the turns before them change. -/
theorem State.forRecords_dealt {rewrite : Record → Record} {cmd : Record → Option Command} {act : Fin 32 → State → State}
    (agree : ∀ h h' r r' c c', s.record? h = some r → s.record? h' = some r' → r.station = r'.station →
      cmd r = some c → cmd r' = some c' → c = c')
    (free : ∀ u h, u.record? h = none → act h u = u)
    (acts : ∀ before h r u, s.Passed u (fun _ => rewrite) (fun _ => cmd) before → h ∉ before → s.record? h = some r →
      u.record? h = some r → act h u = (u.putRecord h (rewrite r)).giving r.station (cmd r)) :
    s.Dealt (s.forRecords act) (fun _ => rewrite) (s.commandFrom (fun _ => cmd) (List.finRange 32)) := by
  have passed := State.passed_foldl (s := s) (rewrite := fun _ => rewrite) (cmd := fun _ => cmd) (act := fun u h => act h u)
    (List.finRange 32) (List.nodup_finRange 32) (fun h _ h' _ r r' c c' => agree h h' r r' c c')
    (fun u h _ => free u h) fun before h r u ⟨after, split⟩ => by
      have fresh : h ∉ before := by
        have nodup := List.nodup_finRange 32
        rw [split] at nodup
        exact fun mem => (List.nodup_append.mp nodup).2.2 h mem h (List.mem_cons_self ..) rfl
      exact fun passed => acts before h r u passed fresh
  have passed := passed _ [] (List.append_nil _).symm
  exact passed.dealt.congr (fun h r _ => if_pos (List.mem_finRange h)) fun _ => rfl

/-! ### What a pass gives, in the words of the statements -/

theorem State.commandFrom_const (test : Record → Bool) (c : Command) (st : Fin 24) :
    s.commandFrom (fun _ r => if test r then some c else none) (List.finRange 32) st =
      if s.anyOn st test then some c else none := by
  have turn : ∀ h, ((s.record? h).bind fun r => if r.station = st then (if test r then some c else none) else none) =
      if s.holds h (fun r => r.station = st && test r) then some c else none := by
    intro h
    rw [State.holds]
    cases s.record? h with
    | none => rfl
    | some r => by_cases on : r.station = st <;> simp [on]
  rw [State.commandFrom, State.anyOn]
  simp only [turn]
  generalize List.finRange 32 = l
  induction l with
  | nil => rfl
  | cons h l ih =>
    rw [List.findSome?_cons, List.any_cons, ih]
    cases s.holds h fun r => r.station = st && test r <;> simp

theorem State.commandFrom_map (test : Fin 32 → Record → Bool) (k : Record → Command) (l : List (Fin 32)) (st : Fin 24) :
    s.commandFrom (fun h r => if test h r then some (k r) else none) l st =
      (l.findSome? fun h => (s.record? h).filter fun r => r.station = st && test h r).map k := by
  rw [State.commandFrom, List.map_findSome?]
  refine congrArg (fun f => l.findSome? f) (funext fun h => ?_)
  rw [Function.comp_apply]
  cases s.record? h with
  | none => rfl
  | some r =>
    rw [Option.bind_some, Option.filter_some]
    by_cases on : r.station = st <;> cases passes : test h r <;> simp [on]

/-- A pass that gives commands for engaged records alone, where no two share a station. -/
theorem State.commandFrom_engaged (shared : s.StationsShared) {cmd : Record → Option Command}
    (engaged : ∀ r c, cmd r = some c → r.state.engaged = true) (st : Fin 24) :
    s.commandFrom (fun _ => cmd) (List.finRange 32) st = (s.engagedRecord st).bind cmd := by
  cases found : s.commandFrom (fun _ => cmd) (List.finRange 32) st with
  | some c =>
    obtain ⟨h, -, r, at_h, on, gives⟩ := State.commandFrom_some found
    have works := engaged r c gives
    cases there : s.engagedOn st with
    | none => rw [(s.engagedOn_none_iff st).mp there h r at_h on] at works; cases works
    | some h' =>
      obtain ⟨r', at_h', on', works'⟩ := State.engagedOn_some there
      obtain rfl := shared.engaged h h' r r' at_h at_h' (on.trans on'.symm) works works'
      rw [State.engagedRecord, there, Option.bind_some, at_h, Option.bind_some, gives]
  | none =>
    cases there : s.engagedOn st with
    | none => rw [State.engagedRecord, there]; rfl
    | some h =>
      obtain ⟨r, at_h, on, -⟩ := State.engagedOn_some there
      have turn := List.findSome?_eq_none_iff.mp found h (List.mem_finRange h)
      rw [State.engagedRecord, there, Option.bind_some, at_h, Option.bind_some]
      simpa [at_h, on] using turn.symm

end Sys2Proof.Machine
end

section
/-! PROOF. The events of the berth lines that reach every record: berth hold begun and ended, contact made, and the emergency
release (R35, R47, R48, R71, R109). -/

namespace Sys2Proof.Machine

variable {s t u : State}

/-! ### What an event over the records leaves as it was -/

theorem State.putRecord_same {h : Fin 32} {r : Record} (at_h : s.record? h = some r) : s.putRecord h r = s := by
  have same : ({ s.table[h] with record := some r } : Slot) = s.table[h] := by
    have record : s.table[h].record = some r := at_h
    rw [← record]
  rw [State.putRecord, same]
  simp

theorem State.giving_none (s : State) (st : Fin 24) : s.giving st none = s := rfl

theorem State.giving_some (s : State) (st : Fin 24) (c : Command) : s.giving st (some c) = s.giveCommand st c := rfl

theorem State.Dealt.config {f : Fin 32 → Record → Record} {g : Fin 24 → Option Command} (dealt : s.Dealt t f g) :
    t.config = s.config := by rw [dealt.rest]

theorem State.Dealt.configured {f : Fin 32 → Record → Record} {g : Fin 24 → Option Command} (dealt : s.Dealt t f g) :
    t.configured = s.configured := by rw [dealt.rest]

theorem State.Dealt.berthHold {f : Fin 32 → Record → Record} {g : Fin 24 → Option Command} (dealt : s.Dealt t f g) :
    t.berthHold = s.berthHold := by rw [dealt.rest]; rfl

theorem State.Dealt.condition {f : Fin 32 → Record → Record} {g : Fin 24 → Option Command} (dealt : s.Dealt t f g)
    (kind : LineFunction) : t.condition kind = s.condition kind := by rw [dealt.rest]; rfl

theorem State.Dealt.interlocked {f : Fin 32 → Record → Record} {g : Fin 24 → Option Command} (dealt : s.Dealt t f g) :
    t.interlocked = s.interlocked := by rw [State.interlocked, State.interlocked, dealt.condition, dealt.berthHold]

theorem State.Dealt.conditions {f : Fin 32 → Record → Record} {g : Fin 24 → Option Command} (dealt : s.Dealt t f g) :
    t.conditions = s.conditions := by simp only [State.conditions, dealt.condition, dealt.berthHold]

theorem State.Dealt.groupEntry {f : Fin 32 → Record → Record} {g : Fin 24 → Option Command} (dealt : s.Dealt t f g)
    (group : Fin 8) : t.groupEntry group = s.groupEntry group := by rw [dealt.rest]; rfl

theorem State.Dealt.refOf {f : Fin 32 → Record → Record} {g : Fin 24 → Option Command} (dealt : s.Dealt t f g)
    (h : Fin 32) : t.refOf h = s.refOf h := by rw [State.refOf, State.refOf, dealt.generations]

/-- A station for which nothing is given keeps its entry. -/
theorem State.Dealt.entry_of_none {f : Fin 32 → Record → Record} {g : Fin 24 → Option Command} (dealt : s.Dealt t f g)
    {st : Fin 24} (nothing : g st = none) : t.entry st = s.entry st := by rw [dealt.commands.entries, nothing]

theorem State.stepBlocked_of_entry {st : Fin 24} (same : t.entry st = s.entry st) : t.stepBlocked st = s.stepBlocked st := by
  rw [State.stepBlocked, State.stepBlocked, same]

/-- The moving states are among the engaged ones. -/
theorem LineState.engaged_of_moving {state : LineState} (moves : state.moving = true) : state.engaged = true := by
  cases state <;> first | rfl | cases moves

/-! ### Berth hold comes into force (R47) -/

theorem State.pauseRecord_eq {h : Fin 32} {r : Record} (at_h : s.record? h = some r) : State.pauseRecord h s =
    (s.putRecord h (if r.state.moving then { r with deadline := r.deadline.freeze } else r)).giving r.station
      (if r.state.moving then some .stopBrake else none) := by
  rw [State.pauseRecord, State.withRecord_some at_h]
  cases r.state.moving
  · exact (State.putRecord_same at_h).symm
  · rfl

theorem State.holdBegun_startHold (s : State) : s.HoldBegun s.startHold := by
  have dealt := State.forRecords_dealt (s := s) (act := State.pauseRecord)
    (rewrite := fun r => if r.state.moving then { r with deadline := r.deadline.freeze } else r)
    (cmd := fun r => if r.state.moving then some .stopBrake else none)
    (fun _ _ r r' c c' _ _ _ one two => by
      simp only [Option.ite_none_right_eq_some, Option.some.injEq] at one two
      exact one.2.symm.trans two.2)
    (fun u h free => State.withRecord_none free _) (fun _ _ _ u _ _ _ at_h => State.pauseRecord_eq at_h)
  exact dealt.congr (fun _ _ _ => rfl) (State.commandFrom_const _ _)

/-! ### Contact made (R35) -/

theorem State.enterPaying_eq {h : Fin 32} {r : Record} (at_h : s.record? h = some r) : s.enterPaying h =
    s.afterMove h { r with state := .paying } (.payTo r.lRun) s.config.timeouts.pay := State.withRecord_some at_h _

theorem State.contactArrives_eq {h : Fin 32} {r : Record} (at_h : s.record? h = some r) : State.contactArrives h s =
    (s.putRecord h (r.contactMade s.berthHold s.config.timeouts.pay)).giving r.station
      (if r.state = .armed then some (if s.berthHold then .stopBrake else .payTo r.lRun) else none) := by
  rw [State.contactArrives, State.holds, at_h, Option.any_some, Record.contactMade]
  by_cases armed : r.state = .armed
  · simp only [armed, decide_true, if_true, State.giving_some]
    rw [State.enterPaying_eq at_h, State.afterMove]
    cases s.berthHold <;> rfl
  · simp only [armed, decide_false, Bool.false_eq_true, if_false, State.giving_none, State.putRecord_same at_h]

theorem State.contactMade_forRecords (shared : s.StationsShared) : s.ContactMade (s.forRecords State.contactArrives) := by
  have dealt := State.forRecords_dealt (s := s) (act := State.contactArrives)
    (rewrite := Record.contactMade s.berthHold s.config.timeouts.pay)
    (cmd := fun r => if decide (r.state = .armed) then some (if s.berthHold then .stopBrake else .payTo r.lRun) else none)
    (fun h h' r r' c c' at_h at_h' on one two => by
      simp only [decide_eq_true_eq, Option.ite_none_right_eq_some, Option.some.injEq] at one two
      obtain ⟨armed, rfl⟩ := one
      obtain ⟨armed', rfl⟩ := two
      obtain rfl := shared.engaged h h' r r' at_h at_h' on (by rw [armed]; rfl) (by rw [armed']; rfl)
      obtain rfl := Option.some.inj (at_h.symm.trans at_h')
      rfl)
    (fun u h free => by rw [State.contactArrives, State.holds, free]; rfl)
    (fun before h r u passed _ _ at_h => by
      rw [State.contactArrives_eq at_h, passed.dealt.berthHold, passed.dealt.config]
      simp only [decide_eq_true_eq])
  exact dealt.congr (fun _ _ _ => rfl) (State.commandFrom_map (fun _ r => decide (r.state = .armed)) _ _)

/-! ### Emergency release (R109, R110) -/

theorem State.forGroups_idle (s : State) : (s.forGroups fun g s => s.putGroup g .idle) =
    { s with groups := Vector.replicate 8 .idle } := by
  have frame : ∀ l : List (Fin 8), ∃ groups, (l.foldl (fun s g => s.putGroup g .idle) s) = { s with groups := groups } := by
    refine fun l => foldl_keeps (fun t => ∃ groups, t = { s with groups := groups }) _ (fun t g kept => ?_) l s ⟨_, rfl⟩
    obtain ⟨groups, rfl⟩ := kept
    exact ⟨_, rfl⟩
  obtain ⟨groups, whole⟩ := frame (List.finRange 8)
  have entries : ∀ g, ((List.finRange 8).foldl (fun s g => s.putGroup g .idle) s).groupEntry g = .idle := fun g => by
    rw [foldl_pointwise State.groupEntry (fun s g => s.putGroup g .idle) (fun _ _ => .idle)
      (fun s g g' => s.groupEntry_putGroup g g' .idle) _ (List.nodup_finRange 8), if_pos (List.mem_finRange g)]
  rw [State.forGroups, whole]
  rw [whole] at entries
  have same : groups = Vector.replicate 8 .idle := by
    refine Vector.ext fun i inside => ?_
    have idle : groups[i] = .idle := entries ⟨i, inside⟩
    rw [idle, Vector.getElem_replicate]
  rw [same]

theorem State.emergencyReleaseRecord_eq {h : Fin 32} {r : Record} (at_h : s.record? h = some r) :
    State.emergencyReleaseRecord h s = (s.putRecord h (r.emergencyReleased s.config.timeouts.clear)).giving r.station
      (if r.state.letGo then some .free else none) := by
  have letGo : (s.enterReleasing h).modifyRecord h (·.raise .emergencyReleased) =
      (s.putRecord h ((r.releasing s.config.timeouts.clear).raise .emergencyReleased)).giveCommand r.station .free := by
    rw [State.enterReleasing_eq at_h, State.modifyRecord_some (r := r.releasing s.config.timeouts.clear) (by simp),
      State.giveCommand_putRecord, State.putRecord_putRecord, State.giveCommand_putRecord]
  rw [State.emergencyReleaseRecord, State.withRecord_some at_h, Record.emergencyReleased]
  cases state : r.state <;> simp only [LineState.letGo, if_true, if_false, Bool.false_eq_true, State.giving_some,
    State.giving_none, reduceCtorEq, State.putRecord_same at_h] <;> first | exact letGo | rfl

theorem State.emergencyReleased_setEmergency (s : State) : s.EmergencyReleased s.setEmergency := by
  rw [State.setEmergency, State.emergencyRelease, State.forGroups_idle, State.EmergencyReleased]
  have dealt := State.forRecords_dealt (s := { s with emergencyLatch := true, groups := Vector.replicate 8 .idle })
    (act := State.emergencyReleaseRecord) (rewrite := Record.emergencyReleased s.config.timeouts.clear)
    (cmd := fun r => if r.state.letGo then some .free else none)
    (fun _ _ r r' c c' _ _ _ one two => by
      simp only [Option.ite_none_right_eq_some, Option.some.injEq] at one two
      exact one.2.symm.trans two.2)
    (fun u h free => State.withRecord_none free _)
    (fun before h r u passed _ _ at_h => by rw [State.emergencyReleaseRecord_eq at_h, passed.dealt.config])
  exact dealt.congr (fun _ _ _ => rfl) (State.commandFrom_const _ _)

/-! ### Berth hold ends (R48, R71) -/

theorem State.unpauseRecord_eq {h : Fin 32} {r : Record} (at_h : s.record? h = some r) : State.unpauseRecord h s =
    (s.putRecord h (if r.state.moving then { r with deadline := r.deadline.thaw } else r)).giving r.station
      (if r.state.moving then some r.moveCommand else none) := by
  rw [State.unpauseRecord, State.withRecord_some at_h]
  cases r.state.moving
  · exact (State.putRecord_same at_h).symm
  · rfl

/-- A trip off hold, by the direction it leans in (R64 to R66, R69). -/
theorem Record.afterTrip_lean {r : Record} {dir : Dir} (lean : r.lean = some dir) (blocked : Bool) :
    r.afterTrip false blocked = if r.stepAmount dir = 0 then r.atLimit dir
      else if blocked then { r with tripDeferred := true } else r.issueStep dir (r.stepAmount dir) := by
  unfold Record.afterTrip
  split
  · next none' => rw [lean] at none'; cases none'
  · next dir' lean' =>
    obtain rfl := Option.some.inj (lean.symm.trans lean')
    rw [if_neg Bool.false_ne_true]
    cases dir <;> rfl

theorem Record.tripCommand_lean {r : Record} {dir : Dir} (lean : r.lean = some dir) (blocked : Bool) :
    r.tripCommand false blocked = if r.stepAmount dir = 0 then none
      else if blocked then none else some (stepCommand dir (r.stepAmount dir)) := by
  rw [Record.tripCommand, lean]
  cases blocked <;> cases dir <;> simp [stepCommand]

/-- A trip from step 2 of R63 in the words of the statements. -/
theorem State.takeTrip_eq {h : Fin 32} {r : Record} (at_h : s.record? h = some r) : s.takeTrip h =
    (s.putRecord h (r.afterTrip false (s.stepBlocked r.station))).giving r.station
      (r.tripCommand false (s.stepBlocked r.station)) := by
  rw [State.takeTrip, State.withRecord_some at_h]
  cases lean : r.lean with
  | none =>
    have stands : r.afterTrip false (s.stepBlocked r.station) = r := by rw [Record.afterTrip]; split <;> simp_all
    have silent : r.tripCommand false (s.stepBlocked r.station) = none := by rw [Record.tripCommand, lean, ite_self]
    rw [stands, silent]
    exact (State.putRecord_same at_h).symm
  | some dir =>
    rw [Record.afterTrip_lean lean, Record.tripCommand_lean lean]
    by_cases none' : r.stepAmount dir = 0
    · simp only [if_pos none', State.giving_none]
    · simp only [if_neg none']
      cases s.stepBlocked r.station
      · rfl
      · simp only [if_true, ← lean]
        rfl

theorem State.takeDeferredTrip_eq {h : Fin 32} {r : Record} (at_h : s.record? h = some r) : State.takeDeferredTrip h s =
    (s.putRecord h (if r.tripsAtHoldEnd then
        Record.afterTrip { r with tripDeferred := false } false (s.stepBlocked r.station) else r)).giving r.station
      (if r.tripsAtHoldEnd then r.tripCommand false (s.stepBlocked r.station) else none) := by
  rw [State.takeDeferredTrip, State.holds, at_h, Option.any_some]
  show (if r.tripsAtHoldEnd = true then _ else _) = _
  cases r.tripsAtHoldEnd with
  | false => exact (State.putRecord_same at_h).symm
  | true =>
    simp only [if_true]
    rw [State.modifyRecord_some at_h, State.takeTrip_eq (State.record?_putRecord_self s h _), State.putRecord_putRecord]
    rfl

/-- A group table without a WAITING group goes through the stage starts of an end of hold unmoved (R104). -/
theorem State.forGroups_startWaitingFirst (none' : s.NoneWaits) (order : Nat) :
    s.forGroups (State.startWaitingFirst order) = s := by
  refine State.forGroups_keeps (· = s) _ (fun g u same => ?_) s rfl
  subst same
  rw [State.startWaitingFirst]
  split
  · next ended waits => exact absurd waits (none' g ended)
  · rfl

theorem State.forGroups_startWaiting (none' : s.NoneWaits) : s.forGroups State.startWaiting = s := by
  refine State.forGroups_keeps (· = s) _ (fun g u same => ?_) s rfl
  subst same
  rw [State.startWaiting]
  split
  · next ended waits => exact absurd waits (none' g ended)
  · rfl

theorem State.Dealt.noneWaits {f : Fin 32 → Record → Record} {g : Fin 24 → Option Command} (dealt : s.Dealt t f g)
    (none' : s.NoneWaits) : t.NoneWaits := fun group ended => by rw [dealt.groupEntry]; exact none' group ended

/-- Records that keep station, call tag and engagement keep the station rules. -/
theorem State.StationsShared.of_records {f : Fin 32 → Record → Record} (shared : s.StationsShared)
    (records : ∀ h, t.record? h = (s.record? h).map (f h))
    (kept : ∀ h r, s.record? h = some r → (f h r).station = r.station ∧ (f h r).callTag = r.callTag ∧
      ((f h r).state.engaged = true → r.state.engaged = true)) : t.StationsShared := by
  have back : ∀ h r', t.record? h = some r' → ∃ r, s.record? h = some r ∧ r'.station = r.station ∧
      r'.callTag = r.callTag ∧ (r'.state.engaged = true → r.state.engaged = true) := by
    intro h r' at_h'
    rw [records] at at_h'
    obtain ⟨r, at_h, rfl⟩ := Option.map_eq_some_iff.mp at_h'
    exact ⟨r, at_h, kept h r at_h⟩
  refine ⟨fun h h' r r' at_h at_h' on works works' => ?_, fun h h' r r' at_h at_h' on tag => ?_, fun st => ?_⟩
  · obtain ⟨q, at_q, station, -, engaged⟩ := back h r at_h
    obtain ⟨q', at_q', station', -, engaged'⟩ := back h' r' at_h'
    exact shared.engaged h h' q q' at_q at_q' (station.symm.trans (on.trans station')) (engaged works) (engaged' works')
  · obtain ⟨q, at_q, station, callTag, -⟩ := back h r at_h
    obtain ⟨q', at_q', station', callTag', -⟩ := back h' r' at_h'
    exact shared.callTag h h' q q' at_q at_q' (station.symm.trans (on.trans station'))
      (callTag.symm.trans (tag.trans callTag'))
  · have same : t.recordsOn st = s.recordsOn st := by
      rw [State.recordsOn, State.recordsOn, State.handlesWith, State.handlesWith]
      refine congrArg (fun test => (List.finRange 32).filter test) (funext fun h => ?_)
      rw [State.holds, State.holds, records]
      cases at_h : s.record? h with
      | none => rfl
      | some r => simp [(kept h r at_h).1]
    rw [same]
    exact shared.atMostTwo st

/-- A record once the paused records run on, before the deferred trips are taken (R48). -/
def Record.thawed (r : Record) : Record := if r.state.moving then { r with deadline := r.deadline.thaw } else r

theorem Record.thawed_keeps (r : Record) : r.thawed.station = r.station ∧ r.thawed.callTag = r.callTag ∧
    r.thawed.state = r.state ∧ r.thawed.tripsAtHoldEnd = r.tripsAtHoldEnd ∧
    ∀ blocked, r.thawed.tripCommand false blocked = r.tripCommand false blocked := by
  rw [Record.thawed]
  cases r.state.moving <;> exact ⟨rfl, rfl, rfl, rfl, fun _ => rfl⟩

theorem Record.moving_of_trips {r : Record} (trips : r.tripsAtHoldEnd = true) : r.state = .tending := by
  simp only [Record.tripsAtHoldEnd, Bool.and_eq_true, decide_eq_true_eq] at trips
  exact trips.1.1.1

/-- The deferred trips of an end of hold, taken one after another: each finds its station's entry as the pass found it, since
no other record engaged on the station is there to give it a command (R31, R71). -/
theorem State.forRecords_takeDeferredTrip (shared : s.StationsShared) : s.Dealt (s.forRecords State.takeDeferredTrip)
    (fun _ r => if r.tripsAtHoldEnd then
      Record.afterTrip { r with tripDeferred := false } false (s.stepBlocked r.station) else r)
    (fun st => (s.engagedRecord st).bind fun r =>
      if r.tripsAtHoldEnd then r.tripCommand false (s.stepBlocked r.station) else none) := by
  have engaged : ∀ (r : Record) (c : Command),
      (if r.tripsAtHoldEnd then r.tripCommand false (s.stepBlocked r.station) else none) = some c →
      r.state.engaged = true := by
    intro r c gives
    cases trips : r.tripsAtHoldEnd with
    | true => rw [Record.moving_of_trips trips]; rfl
    | false => rw [trips] at gives; cases gives
  have dealt := State.forRecords_dealt (s := s) (act := State.takeDeferredTrip)
    (rewrite := fun r => if r.tripsAtHoldEnd then
      Record.afterTrip { r with tripDeferred := false } false (s.stepBlocked r.station) else r)
    (cmd := fun r => if r.tripsAtHoldEnd then r.tripCommand false (s.stepBlocked r.station) else none)
    (fun h h' r r' c c' at_h at_h' on one two => by
      obtain rfl := shared.engaged h h' r r' at_h at_h' on (engaged r c one) (engaged r' c' two)
      obtain rfl := Option.some.inj (at_h.symm.trans at_h')
      exact Option.some.inj (one.symm.trans two))
    (fun u h free => by rw [State.takeDeferredTrip, State.holds, free]; rfl)
    (fun before h r u passed fresh at_s at_h => by
      rw [State.takeDeferredTrip_eq at_h]
      cases trips : r.tripsAtHoldEnd with
      | false => rfl
      | true =>
        have untouched : s.commandFrom (fun _ r => if r.tripsAtHoldEnd then
            r.tripCommand false (s.stepBlocked r.station) else none) before r.station = none := by
          rw [Option.eq_none_iff_forall_ne_some]
          intro c gives
          obtain ⟨h', mem, r', at_h', on, gave⟩ := State.commandFrom_some gives
          have same := shared.engaged h' h r' r at_h' at_s on (engaged r' c gave)
            (by rw [Record.moving_of_trips trips]; rfl)
          exact fresh (same ▸ mem)
        rw [State.stepBlocked_of_entry (passed.dealt.entry_of_none untouched)])
  exact dealt.congr (fun _ _ _ => rfl) (State.commandFrom_engaged shared engaged)

theorem State.forRecords_unpauseRecord (shared : s.StationsShared) : s.Dealt (s.forRecords State.unpauseRecord)
    (fun _ r => r.thawed)
    (fun st => (s.engagedRecord st).bind fun r => if r.state.moving then some r.moveCommand else none) := by
  have engaged : ∀ (r : Record) (c : Command), (if r.state.moving then some r.moveCommand else none) = some c →
      r.state.engaged = true := by
    intro r c gives
    cases moves : r.state.moving with
    | true => exact LineState.engaged_of_moving moves
    | false => rw [moves] at gives; cases gives
  have dealt := State.forRecords_dealt (s := s) (act := State.unpauseRecord) (rewrite := Record.thawed)
    (cmd := fun r => if r.state.moving then some r.moveCommand else none)
    (fun h h' r r' c c' at_h at_h' on one two => by
      obtain rfl := shared.engaged h h' r r' at_h at_h' on (engaged r c one) (engaged r' c' two)
      obtain rfl := Option.some.inj (at_h.symm.trans at_h')
      exact Option.some.inj (one.symm.trans two))
    (fun u h free => State.withRecord_none free _) (fun _ _ _ u _ _ _ at_h => State.unpauseRecord_eq at_h)
  exact dealt.congr (fun _ _ _ => rfl) (State.commandFrom_engaged shared engaged)

/-- Records that keep station and engagement keep the engaged record of each station, rewritten. -/
theorem State.Dealt.engagedRecord {f : Fin 32 → Record → Record} {g : Fin 24 → Option Command} (dealt : s.Dealt t f g)
    {f' : Record → Record} (same : f = fun _ => f') (kept : ∀ r, (f' r).station = r.station ∧ (f' r).state = r.state)
    (st : Fin 24) : t.engagedRecord st = (s.engagedRecord st).map f' := by
  subst same
  have found : t.engagedOn st = s.engagedOn st := by
    refine congrArg (fun test => (List.finRange 32).find? test) (funext fun h => ?_)
    rw [State.holds, State.holds, dealt.records]
    cases s.record? h with
    | none => rfl
    | some r => simp [(kept r).1, (kept r).2]
  rw [State.engagedRecord, State.engagedRecord, found]
  cases s.engagedOn st with
  | none => rfl
  | some h => exact dealt.records h

theorem State.engagedRecord_of (shared : s.StationsShared) {h : Fin 32} {r : Record} (at_h : s.record? h = some r)
    (works : r.state.engaged = true) : s.engagedRecord r.station = some r := by
  cases there : s.engagedOn r.station with
  | none => rw [(s.engagedOn_none_iff _).mp there h r at_h rfl] at works; cases works
  | some h' =>
    obtain ⟨r', at_h', on, works'⟩ := State.engagedOn_some there
    obtain rfl := shared.engaged h' h r' r at_h' at_h on works' works
    rw [State.engagedRecord, there]
    exact at_h

theorem State.engagedRecord_station {st : Fin 24} {r : Record} (there : s.engagedRecord st = some r) : r.station = st := by
  obtain ⟨h, found, at_h⟩ := Option.bind_eq_some_iff.mp there
  obtain ⟨r', at_h', on, -⟩ := State.engagedOn_some found
  obtain rfl := Option.some.inj (at_h.symm.trans at_h')
  exact on

/-- An end of hold with no group WAITING: the paused records run on, and then the deferred trips are taken. -/
theorem State.holdEnded_passes (shared : s.StationsShared) : s.Dealt
    ((s.forRecords State.unpauseRecord).forRecords State.takeDeferredTrip)
    (fun _ r => r.afterHold (s.stepBlocked r.station))
    (fun st => (s.engagedRecord st).bind fun r => r.commandAtHoldEnd (s.stepBlocked st)) := by
  have runOn := State.forRecords_unpauseRecord shared
  generalize s.forRecords State.unpauseRecord = t at runOn ⊢
  have trips := State.forRecords_takeDeferredTrip (shared.of_records runOn.records fun _ r _ => by
    obtain ⟨station, tag, state, -⟩ := r.thawed_keeps
    exact ⟨station, tag, by rw [state]; exact id⟩)
  have engaged : ∀ st, t.engagedRecord st = (s.engagedRecord st).map Record.thawed :=
    runOn.engagedRecord rfl fun r => ⟨r.thawed_keeps.1, r.thawed_keeps.2.2.1⟩
  have still : ∀ {r : Record}, r.state.moving = false → s.engagedRecord r.station = some r →
      t.stepBlocked r.station = s.stepBlocked r.station := fun {r} rests there =>
    State.stepBlocked_of_entry (runOn.entry_of_none (by rw [there, Option.bind_some, rests]; rfl))
  refine (runOn.trans trips fun st c c' one two => ?_).congr (fun h r at_h => ?_) fun st => ?_
  · rw [engaged] at two
    cases there : s.engagedRecord st with
    | none => rw [there] at one; cases one
    | some r =>
      rw [there] at one two
      obtain ⟨-, -, -, trips, -⟩ := r.thawed_keeps
      have moves : r.state.moving = true := by
        cases moves : r.state.moving with
        | true => rfl
        | false => rw [Option.bind_some, moves] at one; cases one
      have rests : r.tripsAtHoldEnd = false := by
        rw [Bool.eq_false_iff]; exact fun trips => by rw [Record.moving_of_trips trips] at moves; cases moves
      rw [Option.map_some, Option.bind_some, trips, rests] at two
      cases two
  · obtain ⟨station, -, -, trips, -⟩ := r.thawed_keeps
    rw [trips, station, Record.afterHold]
    cases moves : r.state.moving with
    | true =>
      have rests : r.tripsAtHoldEnd = false := by
        rw [Bool.eq_false_iff]; exact fun trips => by rw [Record.moving_of_trips trips] at moves; cases moves
      rw [rests, Record.thawed, moves]
      rfl
    | false =>
      have same : r.thawed = r := by rw [Record.thawed, moves]; rfl
      rw [same]
      cases trips : r.tripsAtHoldEnd with
      | false => rfl
      | true =>
        have works : r.state.engaged = true := by rw [Record.moving_of_trips trips]; rfl
        rw [still moves (State.engagedRecord_of shared at_h works)]
        rfl
  · rw [engaged]
    cases there : s.engagedRecord st with
    | none => rfl
    | some r =>
      obtain rfl := State.engagedRecord_station there
      obtain ⟨station, -, -, trips, command⟩ := r.thawed_keeps
      rw [Option.map_some, Option.bind_some, Option.bind_some, Option.bind_some, Record.commandAtHoldEnd, trips, station,
        command]
      cases moves : r.state.moving with
      | true => rfl
      | false => rw [still moves there]; rfl

theorem State.holdEnded_endHold (shared : s.StationsShared) (none' : s.NoneWaits) : s.HoldEnded s.endHold := by
  have shared₁ : State.StationsShared { s with holdEnds := s.holdEnds + 1 } :=
    shared.of_records (f := fun _ r => r) (fun h => by rw [Option.map_id']; rfl) fun _ _ _ => ⟨rfl, rfl, id⟩
  have passes := State.holdEnded_passes shared₁
  have none₁ : State.NoneWaits { s with holdEnds := s.holdEnds + 1 } := none'
  have runOn := State.forRecords_unpauseRecord shared₁
  have first := State.forGroups_startWaitingFirst (runOn.noneWaits none₁) s.holdEnds
  have last := State.forGroups_startWaiting (passes.noneWaits none₁)
  have whole : s.endHold = (State.forRecords { s with holdEnds := s.holdEnds + 1 } State.unpauseRecord).forRecords
      State.takeDeferredTrip := by simp only [State.endHold, first, last]
  rw [State.HoldEnded, whole]
  exact passes

/-! ### The urgent codes -/

theorem State.takeHoldChange_begins (was : Bool) (before : was = false) (now : s.berthHold = true) :
    s.takeHoldChange was = s.startHold := by simp [State.takeHoldChange, before, now]

theorem State.takeHoldChange_ends (was : Bool) (before : was = true) (now : s.berthHold = false) :
    s.takeHoldChange was = s.endHold := by simp [State.takeHoldChange, before, now]

end Sys2Proof.Machine

namespace Sys2Proof

open Machine

/-- Settles O10: what the two urgent codes do to the software hold, and the change of berth hold that follows. -/
theorem holdAllAndResumeAll : Obligations.HoldAllAndResumeAll := by
  have taken (s : State) (idle : s.port.executing = none) (code : UrgentCode) :
      exec code.instr s = .next (State.takeUrgent { s with port := { s.port with posted := none } } code) := by
    rw [exec_urgent, State.postUrgent_idle idle]
  refine ⟨fun s idle => ⟨fun off => ?_, fun on => (taken s idle .holdAll).trans ?_⟩,
    fun s idle => ⟨fun on clear shared none' => ?_,
      fun stays => (taken s idle .resumeAll).trans ?_⟩⟩
  · have now : State.berthHold { s with softwareHold := true, port := { s.port with posted := none } } = true :=
      Bool.or_true _
    have begins := State.takeHoldChange_begins _ off now
    exact ⟨_, (taken s idle .holdAll).trans (congrArg Host.Outcome.next begins), State.holdBegun_startHold _⟩
  · have now : State.berthHold { s with softwareHold := true, port := { s.port with posted := none } } = s.berthHold :=
      (Bool.or_true _).trans on.symm
    have same := State.takeHoldChange_same { s with softwareHold := true, port := { s.port with posted := none } }
    rw [now] at same
    exact congrArg Host.Outcome.next same
  · have now : State.berthHold { s with softwareHold := false, port := { s.port with posted := none } } = false :=
      (Bool.or_false _).trans clear
    have ends := State.takeHoldChange_ends _ on now
    have records : ∀ h, State.record? { s with softwareHold := false, port := { s.port with posted := none } } h =
        (s.record? h).map fun r => r := fun h => by rw [Option.map_id']; rfl
    have shared' := shared.of_records (f := fun _ r => r) records fun _ _ _ => ⟨rfl, rfl, id⟩
    exact ⟨_, (taken s idle .resumeAll).trans (congrArg Host.Outcome.next ends), State.holdEnded_endHold shared' none'⟩
  · have now : State.berthHold { s with softwareHold := false, port := { s.port with posted := none } } = s.berthHold := by
      refine (Bool.or_false _).trans ?_
      show s.condition .hold = s.berthHold
      rcases stays with off | on
      · obtain ⟨hold, -⟩ := Bool.or_eq_false_iff.mp off
        rw [off, hold]
      · rw [State.berthHold, on, Bool.true_or]
    have same := State.takeHoldChange_same { s with softwareHold := false, port := { s.port with posted := none } }
    rw [now] at same
    exact congrArg Host.Outcome.next same

/-- Settles O12: RELEASE ALL performs the emergency release, whatever else holds. -/
theorem releaseAllLetsEveryWorkingLineGo : Obligations.ReleaseAllLetsEveryWorkingLineGo := fun s idle =>
  ⟨_, (exec_urgent .releaseAll s).trans (congrArg Host.Outcome.next (State.postUrgent_idle idle .releaseAll)),
    State.emergencyReleased_setEmergency _⟩

end Sys2Proof
end

section
/-! PROOF. Requests on the members of a target (R80 to R82): the pass that weighs them one by one, said in one, and the requests
that act on members with it: DISARM, HOLD LINE, RESUME, SET, APPLY and ARM. -/

namespace Sys2Proof.Machine

variable {s t u : State}

/-! ### The members weighed one by one (R82) -/

/-- The state that the weighing of one member leaves. -/
def RecordAction.turn (a : RecordAction) (u : State) (h : Fin 32) : State := (a.weigh (u, 0, 0) h).1

theorem RecordAction.turn_of {a : RecordAction} {h : Fin 32} {r : Record} (at_h : u.record? h = some r) :
    a.turn u h = if (a.refusal u r).isNone then a.act u h else u := by
  rw [RecordAction.turn, RecordAction.weigh]
  simp only [at_h]
  cases a.refusal u r <;> rfl

theorem RecordAction.weigh_of {a : RecordAction} {h : Fin 32} {r : Record} (at_h : u.record? h = some r) (m n : Nat) :
    a.weigh (u, m, n) h = if (a.refusal u r).isNone then (a.turn u h, m + 1, n) else (a.turn u h, m, n + 1) := by
  rw [RecordAction.turn_of at_h, RecordAction.weigh]
  simp only [at_h]
  cases a.refusal u r <;> rfl

/-- What weighing the members of a target comes to, where a turn permits `permits` of the table as it stands and then
rewrites the record by `rewrite` and gives `cmd` for its station. -/
structure RecordAction.Weighs (a : RecordAction) (s : State) (members : List (Fin 32)) (permits : Fin 32 → Record → Bool)
    (rewrite : Fin 32 → Record → Record) (cmd : Fin 32 → Record → Option Command) : Prop where
  there : ∀ h ∈ members, ∃ r, s.record? h = some r
  agree : ∀ h ∈ members, ∀ h' ∈ members, ∀ r r' c c', s.record? h = some r → s.record? h' = some r' →
    r.station = r'.station → permits h r = true → permits h' r' = true → cmd h r = some c → cmd h' r' = some c' → c = c'
  weighs : ∀ before h r u, (∃ after, members = before ++ h :: after) →
    s.Passed u (fun h r => if permits h r then rewrite h r else r) (fun h r => if permits h r then cmd h r else none) before →
    s.record? h = some r → u.record? h = some r →
    (a.refusal u r).isNone = permits h r ∧
      (permits h r = true → a.act u h = (u.putRecord h (rewrite h r)).giving r.station (cmd h r))

section Weighs

variable {a : RecordAction} {members : List (Fin 32)} {permits : Fin 32 → Record → Bool}
  {rewrite : Fin 32 → Record → Record} {cmd : Fin 32 → Record → Option Command}

theorem RecordAction.Weighs.passed (w : a.Weighs s members permits rewrite cmd) (nodup : members.Nodup) :
    ∀ before after, members = before ++ after →
      s.Passed (before.foldl a.turn s) (fun h r => if permits h r then rewrite h r else r)
        (fun h r => if permits h r then cmd h r else none) before := by
  refine State.passed_foldl members nodup (fun h mem h' mem' r r' c c' at_h at_h' on one two => ?_) (fun u h _ free => ?_)
    fun before h r u split passed at_s at_h => ?_
  · simp only [Option.ite_none_right_eq_some] at one two
    exact w.agree h mem h' mem' r r' c c' at_h at_h' on one.1 two.1 one.2 two.2
  · rw [RecordAction.turn, RecordAction.weigh]
    simp only [free]
  · obtain ⟨refuses, acts⟩ := w.weighs before h r u split passed at_s at_h
    rw [RecordAction.turn_of at_h, refuses]
    cases permitted : permits h r with
    | true => exact acts permitted
    | false => exact (State.putRecord_same at_h).symm

/-- The weighing of every member: the state that the turns leave, with the counts of members acted on and skipped. -/
theorem RecordAction.Weighs.foldl (w : a.Weighs s members permits rewrite cmd) (nodup : members.Nodup) :
    members.foldl a.weigh (s, 0, 0) = (members.foldl a.turn s, members.countP (fun h => s.holds h (permits h)),
      members.countP (fun h => !s.holds h (permits h))) := by
  suffices prefixes : ∀ before after, members = before ++ after → before.foldl a.weigh (s, 0, 0) =
      (before.foldl a.turn s, before.countP (fun h => s.holds h (permits h)), before.countP (fun h => !s.holds h (permits h)))
    from prefixes members [] (List.append_nil _).symm
  intro before
  induction before using List.reverseRecOn with
  | nil => exact fun _ _ => rfl
  | append_singleton before h ih =>
    intro after split
    rw [List.append_assoc, List.singleton_append] at split
    have passed := w.passed nodup before (h :: after) split
    have fresh : h ∉ before := by
      rw [split] at nodup
      exact fun mem => (List.nodup_append.mp nodup).2.2 h mem h (List.mem_cons_self ..) rfl
    have mem : h ∈ members := by rw [split]; exact List.mem_append_right _ (List.mem_cons_self ..)
    obtain ⟨r, at_s⟩ := w.there h mem
    have at_h := (passed.record? fresh).trans at_s
    obtain ⟨refuses, -⟩ := w.weighs before h r _ ⟨after, split⟩ passed at_s at_h
    rw [List.foldl_append, ih _ split, List.foldl_cons, List.foldl_nil, List.foldl_append, List.foldl_cons, List.foldl_nil,
      RecordAction.weigh_of at_h, refuses, List.countP_append, List.countP_append, List.countP_singleton,
      List.countP_singleton, State.holds, at_s, Option.any_some]
    cases permits h r <;> rfl

end Weighs

/-! ### Members and their counts -/

theorem State.holds_and (s : State) (h : Fin 32) (p q : Record → Bool) :
    (s.holds h p && s.holds h q) = s.holds h fun r => p r && q r := by
  rw [State.holds, State.holds, State.holds]
  cases s.record? h <;> rfl

theorem State.holds_and_not (s : State) (h : Fin 32) (p q : Record → Bool) :
    (s.holds h p && !s.holds h q) = s.holds h fun r => p r && !q r := by
  rw [State.holds, State.holds, State.holds]
  cases s.record? h <;> rfl

theorem State.countP_handlesWith (s : State) (member : Record → Bool) (permits : Fin 32 → Record → Bool) :
    (s.handlesWith member).countP (fun h => s.holds h (permits h)) =
      ((List.finRange 32).filter fun h => s.holds h fun r => member r && permits h r).length := by
  rw [State.handlesWith, List.countP_filter, List.countP_eq_length_filter]
  refine congrArg (fun test => ((List.finRange 32).filter test).length) (funext fun h => ?_)
  rw [Bool.and_comm, State.holds_and]

theorem State.countP_not_handlesWith (s : State) (member : Record → Bool) (permits : Fin 32 → Record → Bool) :
    (s.handlesWith member).countP (fun h => !s.holds h (permits h)) =
      ((List.finRange 32).filter fun h => s.holds h fun r => member r && !permits h r).length := by
  rw [State.handlesWith, List.countP_filter, List.countP_eq_length_filter]
  refine congrArg (fun test => ((List.finRange 32).filter test).length) (funext fun h => ?_)
  rw [Bool.and_comm, State.holds_and_not]

/-- The members of a target that are skipped are those not acted on. -/
theorem State.countP_skipped (s : State) (member : Record → Bool) (permits : Fin 32 → Record → Bool) :
    (s.handlesWith member).countP (fun h => !s.holds h (permits h)) =
      s.count member - (s.handlesWith member).countP (fun h => s.holds h (permits h)) := by
  have both := (s.handlesWith member).length_eq_countP_add_countP (fun h => s.holds h (permits h))
  rw [State.count, both, Nat.add_sub_cancel_left]
  refine congrArg (fun test => (s.handlesWith member).countP test) (funext fun h => ?_)
  cases s.holds h (permits h) <;> rfl

theorem State.commandFrom_handlesWith (cmd : Fin 32 → Record → Option Command) (member : Record → Bool) (st : Fin 24) :
    s.commandFrom cmd (s.handlesWith member) st =
      s.commandFrom (fun h r => if member r then cmd h r else none) (List.finRange 32) st := by
  rw [State.commandFrom, State.commandFrom, State.handlesWith]
  generalize List.finRange 32 = l
  induction l with
  | nil => rfl
  | cons h l ih =>
    rw [List.filter_cons, List.findSome?_cons]
    cases holds : s.record? h with
    | none =>
      have no : s.holds h member = false := by rw [State.holds, holds]; rfl
      rw [no, if_neg Bool.false_ne_true, ih]
      rfl
    | some r =>
      have same : s.holds h member = member r := by rw [State.holds, holds]; rfl
      rw [same]
      cases named : member r with
      | false => rw [if_neg Bool.false_ne_true, ih]; simp [named]
      | true => rw [if_pos rfl, List.findSome?_cons, holds, ih]; simp [named]

/-- A request on the members of a target, in one (R82). -/
theorem RecordAction.onMembers_dealt {a : RecordAction} {member : Record → Bool} {permits : Fin 32 → Record → Bool}
    {rewrite : Fin 32 → Record → Record} {cmd : Fin 32 → Record → Option Command}
    (w : a.Weighs s (s.handlesWith member) permits rewrite cmd) :
    ∃ t, s.Dealt t (fun h r => if member r && permits h r then rewrite h r else r)
        (s.commandFrom (fun h r => if member r && permits h r then cmd h r else none) (List.finRange 32)) ∧
      a.onMembers s (s.handlesWith member) = doneCounts t
        ((s.handlesWith member).countP (fun h => s.holds h (permits h)))
        ((s.handlesWith member).countP (fun h => !s.holds h (permits h))) := by
  have nodup := s.handlesWith_nodup member
  have passed := (w.passed nodup _ [] (List.append_nil _).symm).dealt
  refine ⟨_, passed.congr (fun h r at_h => ?_) fun st => ?_, by rw [RecordAction.onMembers, w.foldl nodup]⟩
  · have mem : h ∈ s.handlesWith member ↔ member r = true := by simp [s.mem_handlesWith, at_h]
    simp only [mem]
    cases member r <;> simp
  · rw [State.commandFrom_handlesWith]
    refine congrArg (fun cmd => s.commandFrom cmd (List.finRange 32) st) (funext₂ fun h r => ?_)
    cases member r <;> simp

theorem State.Weighs_there (s : State) (member : Record → Bool) : ∀ h ∈ s.handlesWith member, ∃ r, s.record? h = some r :=
  fun h mem => ((s.mem_handlesWith member h).mp mem).imp fun _ => And.left

/-- A GROUP or BERTH target that passes R80 names the members that `memberTest` says. -/
theorem RecordAction.onTarget_members {kind value : Byte} {member : Record → Bool} (named : memberTest kind value = some member)
    (a : RecordAction) {whole : State → Option Result} (s : State) :
    a.onTarget whole s kind value = match whole s with
      | some result => refuse s result
      | none => a.onMembers s (s.handlesWith member) := by
  unfold memberTest at named
  split at named
  · next one =>
    obtain ⟨inside, rfl⟩ := Option.ite_none_right_eq_some.mp named |>.imp_right Option.some.inj
    have target : Target.ofBytes kind value = .ok (.group ⟨value.toNat, inside⟩) := by
      unfold Target.ofBytes
      rw [one, finOf_some inside]
      rfl
    have test : (fun r : Record => decide (r.group = ⟨value.toNat, inside⟩)) = fun r => decide (r.group.val = value.toNat) :=
      funext fun r => by rw [decide_eq_decide, Fin.ext_iff]
    rw [RecordAction.onTarget, target, ← test] <;> rfl
  · next two =>
    obtain rfl := Option.some.inj named
    have target : Target.ofBytes kind value = .ok .berth := by
      unfold Target.ofBytes
      rw [two]
      rfl
    rw [RecordAction.onTarget, target] <;> rfl
  · cases named

/-! ### Requests that act on one record whatever they do to the others -/

/-- A request with a target whose permission depends on the record and its station's entry, and which does nothing but
rewrite the record. -/
theorem RecordAction.actsOn {a : RecordAction} {command : Byte → Byte → Instr} {code : RequestCode}
    {whole : State → Option Result} {permitted : State → Record → Bool} {effect : Record → Record}
    (sends : ∀ (s t : State) (kind value : Byte) (result : Result) (out : List Byte), s.port.Awaits →
      a.onTarget whole s kind value = (t, { result := result, body := out }) →
      exec (command kind value) s = .next (t.answering s code result out))
    (passes : ∀ s, whole s = none)
    (refuses : ∀ s r, a.refusal s r = if permitted s r then none else some .badState)
    (acts : ∀ s h r, s.record? h = some r → a.act s h = s.putRecord h (effect r))
    (stable : ∀ s u r, (∀ st, u.entry st = s.entry st) → permitted u r = permitted s r) :
    ActsOn command code permitted effect where
  reference s ref r waits named at_ref permits := by
    refine sends s _ 0 ref .done [1, 0] waits ?_
    rw [RecordAction.onTarget_reference, withReference_named named at_ref]
    simp only [passes, refuses, permits, if_true, acts s _ r at_ref]
    rfl
  refused s ref r waits named at_ref permits := by
    refine sends s _ 0 ref .badState [] waits ?_
    rw [RecordAction.onTarget_reference, withReference_named named at_ref]
    simp only [passes, refuses, permits, Bool.false_eq_true, if_false]
    rfl
  members s kind value member waits named := by
    have w : a.Weighs s (s.handlesWith member) (fun _ => permitted s) (fun _ => effect) fun _ _ => none :=
      ⟨s.Weighs_there member, fun _ _ _ _ _ _ _ _ _ _ _ _ _ gives => (nomatch gives), fun before h r u _ passed _ at_h => by
        have entries : ∀ st, u.entry st = s.entry st := fun st => passed.dealt.entry_of_none (by
          rw [Option.eq_none_iff_forall_ne_some]
          intro c gives
          obtain ⟨h', -, r', -, -, gave⟩ := State.commandFrom_some gives
          rw [ite_self] at gave
          cases gave)
        refine ⟨?_, fun _ => acts u h r at_h⟩
        rw [refuses, stable s u r entries]
        cases permitted s r <;> rfl⟩
    obtain ⟨t, dealt, answer⟩ := RecordAction.onMembers_dealt w
    refine ⟨t, dealt.congr (fun _ _ _ => rfl) fun st => ?_, sends s t kind value .done _ waits ?_⟩
    · rw [Option.eq_none_iff_forall_ne_some]
      intro c gives
      obtain ⟨h', -, r', -, -, gave⟩ := State.commandFrom_some gives
      rw [ite_self] at gave
      cases gave
    · rw [RecordAction.onTarget_members named, passes, answer, State.countP_handlesWith, State.countP_not_handlesWith]
      rfl

theorem unlessState_eq (permitted : LineState → Bool) (s : State) (r : Record) :
    unlessState permitted s r = if permitted r.state then none else some .badState := rfl

/-! ### APPLY (R84 to R87) -/

/-- The command that APPLY gives for a record's station (R87). -/
def Record.applyCommand (hold : Bool) (r : Record) : Option Command :=
  if r.state = .hauling && !hold then some (.haulUntil (r.afterApply.p - r.afterApply.b)) else none

theorem applyRecord_eq {h : Fin 32} {r : Record} (at_h : s.record? h = some r) (applies : r.applies = true) :
    applyRecord s h = (s.putRecord h r.afterApply).giving r.station (r.applyCommand s.berthHold) := by
  rw [applyRecord, State.withRecord_some at_h]
  obtain ⟨part, pending⟩ := Option.isSome_iff_exists.mp (Bool.and_eq_true_iff.mp applies).2
  have after : r.afterApply =
      if r.state = .tending then { r.applied part with c := 0, lean := none, tripDeferred := false } else r.applied part := by
    unfold Record.afterApply
    split
    · next none' => rw [pending] at none'; cases none'
    · next part' pending' => obtain rfl := Option.some.inj (pending.symm.trans pending'); rfl
  simp only [pending]
  rw [Record.applyCommand]
  split
  · next tends => simp only [tends] at after; rw [after, tends]; rfl
  · next hauls =>
    simp only [hauls] at after
    rw [after, hauls, State.paused, hauls]
    cases s.berthHold <;> rfl
  · next notTending notHauling =>
    rw [if_neg notTending] at after
    have rests : (decide (r.state = .hauling) && !s.berthHold) = false := by
      rw [decide_eq_false notHauling, Bool.false_and]
    rw [after, if_neg (by rw [rests]; exact Bool.false_ne_true)]
    rfl

/-! ### ARM (R31 to R35) -/

/-- The checks of ARM on one record, passed (R31). -/
theorem armRefusal_isNone (s : State) (r : Record) : (armRefusal s r).isNone =
    (decide (r.state = .prepared) && decide ((s.entry r.station).presence = .present) && (s.engagedOn r.station).isNone &&
      !(s.entry r.station).zeroing) := by
  unfold armRefusal
  by_cases prepared : r.state = .prepared
  · by_cases present : (s.entry r.station).presence = .present
    · cases s.engagedOn r.station <;> cases (s.entry r.station).zeroing <;> simp [prepared, present]
    · simp [prepared, present]
  · simp [prepared]

/-- A record that ARM has armed (R32, R35, R47). -/
def Record.armed (contact hold : Bool) (pay : Nat) (r : Record) : Record :=
  if contact then { r with state := .paying, deadline := if hold then .frozen pay else .running pay }
  else { r with state := .armed, deadline := .absent }

/-- The command that ARM gives for a record's station (R32, R35, R47). -/
def Record.armCommand (contact hold : Bool) (r : Record) : Option Command :=
  if contact then some (if hold then .stopBrake else .payTo r.lRun) else none

theorem armRecord_eq {h : Fin 32} {r : Record} (at_h : s.record? h = some r) : armRecord s h =
    (s.putRecord h (r.armed (s.condition .contact) s.berthHold s.config.timeouts.pay)).giving r.station
      (r.armCommand (s.condition .contact) s.berthHold) := by
  rw [armRecord, State.modifyRecord_some at_h, Record.armed, Record.armCommand]
  show (if s.condition .contact then _ else _) = _
  cases s.condition .contact with
  | false => rfl
  | true =>
    rw [if_pos rfl, if_pos rfl, if_pos rfl, State.enterPaying_eq (State.record?_putRecord_self s h _), State.afterMove,
      State.putRecord_putRecord, State.putRecord_putRecord]
    show (if s.berthHold then _ else _) = _
    cases s.berthHold <;> rfl

theorem Record.engaged_armed (contact hold : Bool) (pay : Nat) (r : Record) : (r.armed contact hold pay).state.engaged = true := by
  cases contact <;> rfl

theorem Record.station_armed (contact hold : Bool) (pay : Nat) (r : Record) :
    (r.armed contact hold pay).station = r.station := by
  cases contact <;> rfl

/-- A command given leaves an entry's presence and zeroing. -/
theorem StationEntry.given_keeps (e : StationEntry) (c : Command) :
    (e.given c).presence = e.presence ∧ (e.given c).zeroing = e.zeroing := by
  rw [StationEntry.given]
  split <;> exact ⟨rfl, rfl⟩

theorem State.Dealt.entry_keeps {f : Fin 32 → Record → Record} {g : Fin 24 → Option Command} (dealt : s.Dealt t f g)
    (st : Fin 24) : (t.entry st).presence = (s.entry st).presence ∧ (t.entry st).zeroing = (s.entry st).zeroing := by
  rw [dealt.commands.entries]
  cases g st with
  | none => exact ⟨rfl, rfl⟩
  | some c => exact (s.entry st).given_keeps c

theorem State.mayArm_of_arms {member : Record → Bool} {h : Fin 32} {r : Record} (arms : s.arms member h r = true) :
    s.mayArm member r = true := (Bool.and_eq_true_iff.mp arms).1

/-- Of two records on one station at most one is armed (R33). -/
theorem State.arms_unique {member : Record → Bool} {h h' : Fin 32} {r r' : Record} (at_h : s.record? h = some r)
    (at_h' : s.record? h' = some r') (on : r.station = r'.station) (arms : s.arms member h r = true)
    (arms' : s.arms member h' r' = true) : h = h' := by
  have notBelow : ∀ {h h' : Fin 32} {r r' : Record}, s.record? h = some r → r.station = r'.station →
      s.arms member h r = true → s.arms member h' r' = true → ¬ h < h' := by
    intro h h' r r' at_h on arms arms' below
    have none' := (Bool.and_eq_true_iff.mp arms').2
    rw [Bool.not_eq_true', List.any_eq_false] at none'
    refine none' h (List.mem_finRange h) ?_
    rw [Bool.and_eq_true, decide_eq_true_eq, s.holds_iff]
    exact ⟨below, r, at_h, by rw [Bool.and_eq_true, decide_eq_true_eq]; exact ⟨on, State.mayArm_of_arms arms⟩⟩
  exact le_antisymm (not_lt.mp (notBelow at_h' on.symm arms' arms)) (not_lt.mp (notBelow at_h on arms arms'))

/-- Where some record of lower handle may be armed on a station, one is (R33). -/
theorem State.exists_arms {member : Record → Bool} {h : Fin 32} {st : Fin 24}
    (some' : ∃ h' < h, ∃ r', s.record? h' = some r' ∧ r'.station = st ∧ s.mayArm member r' = true) :
    ∃ h' < h, ∃ r', s.record? h' = some r' ∧ r'.station = st ∧ s.arms member h' r' = true := by
  obtain ⟨h', ⟨below, r', at_h', on, may⟩, least⟩ := WellFounded.has_min (wellFounded_lt (α := Fin 32))
    {h' | h' < h ∧ ∃ r', s.record? h' = some r' ∧ r'.station = st ∧ s.mayArm member r' = true} some'
  refine ⟨h', below, r', at_h', on, ?_⟩
  rw [State.arms, may, Bool.true_and, Bool.not_eq_true', List.any_eq_false]
  intro h'' _ lower
  rw [Bool.and_eq_true, decide_eq_true_eq, s.holds_iff] at lower
  obtain ⟨lower, r'', at_h'', found⟩ := lower
  rw [Bool.and_eq_true, decide_eq_true_eq] at found
  exact least h'' ⟨lower.trans below, r'', at_h'', found.1.trans on, found.2⟩ lower

/-- The members before one in a target's list are those of lower handle. -/
theorem State.mem_before {member : Record → Bool} {before after : List (Fin 32)} {h : Fin 32}
    (split : s.handlesWith member = before ++ h :: after) (h' : Fin 32) :
    h' ∈ before ↔ h' < h ∧ h' ∈ s.handlesWith member := by
  have sorted := s.handlesWith_sorted member
  rw [split] at sorted ⊢
  obtain ⟨-, right, across⟩ := List.pairwise_append.mp sorted
  constructor
  · exact fun mem => ⟨across h' mem h (List.mem_cons_self ..), List.mem_append_left _ mem⟩
  · rintro ⟨below, mem⟩
    rcases List.mem_append.mp mem with mem | mem
    · exact mem
    · rcases List.mem_cons.mp mem with rfl | mem
      · exact absurd below (lt_irrefl _)
      · exact absurd below (not_lt.mpr (List.rel_of_pairwise_cons right mem).le)

/-- The weighing of the members of an ARM: a member is armed if it may be and none of lower handle on its station is. -/
theorem armAction_weighs (s : State) (member : Record → Bool) : armAction.Weighs s (s.handlesWith member) (s.arms member)
    (fun _ r => r.armed (s.condition .contact) s.berthHold s.config.timeouts.pay)
    (fun _ r => r.armCommand (s.condition .contact) s.berthHold) where
  there := s.Weighs_there member
  agree h _ h' _ r r' c c' at_h at_h' on arms arms' one two := by
    obtain rfl := State.arms_unique at_h at_h' on arms arms'
    obtain rfl := Option.some.inj (at_h.symm.trans at_h')
    exact Option.some.inj (one.symm.trans two)
  weighs before h r u := by
    rintro ⟨after, split⟩ passed at_s at_h
    obtain ⟨presence, zeroing⟩ := passed.dealt.entry_keeps r.station
    have named : member r = true := by
      have mem : h ∈ s.handlesWith member := by rw [split]; exact List.mem_append_right _ (List.mem_cons_self ..)
      obtain ⟨r', at_h', named⟩ := (s.mem_handlesWith member h).mp mem
      obtain rfl := Option.some.inj (at_s.symm.trans at_h')
      exact named
    have taken : (u.engagedOn r.station).isNone = ((s.engagedOn r.station).isNone &&
        !(List.finRange 32).any fun h' => h' < h && s.holds h' fun r' => r'.station = r.station && s.mayArm member r') := by
      rw [Bool.eq_iff_iff, Bool.and_eq_true, Bool.not_eq_true', Option.isNone_iff_eq_none, Option.isNone_iff_eq_none,
        u.engagedOn_none_iff, s.engagedOn_none_iff]
      constructor
      · intro free
        refine ⟨fun h' r' at_h' on => ?_, List.any_eq_false.mpr fun h' _ lower => ?_⟩
        · by_cases arms : h' ∈ before ∧ s.arms member h' r' = true
          · have may := State.mayArm_of_arms arms.2
            simp only [State.mayArm, Bool.and_eq_true, decide_eq_true_eq] at may
            rw [may.1.1.1.2]; rfl
          · have stands : u.record? h' = some r' := by
              rw [passed.dealt.records, at_h', Option.map_some]
              by_cases mem : h' ∈ before
              · rw [if_pos mem, if_neg fun arm => arms ⟨mem, arm⟩]
              · rw [if_neg mem]
            exact free h' r' stands on
        · rw [Bool.and_eq_true, decide_eq_true_eq, s.holds_iff] at lower
          obtain ⟨lower, r', at_h', found⟩ := lower
          rw [Bool.and_eq_true, decide_eq_true_eq] at found
          obtain ⟨h₀, below, r₀, at_h₀, on₀, arms₀⟩ := State.exists_arms ⟨h', lower, r', at_h', found⟩
          have named₀ : member r₀ = true := by
            have may := State.mayArm_of_arms arms₀
            simp only [State.mayArm, Bool.and_eq_true] at may
            exact may.1.1.1.1
          have mem : h₀ ∈ before := (State.mem_before split h₀).mpr
            ⟨below, (s.mem_handlesWith member h₀).mpr ⟨r₀, at_h₀, named₀⟩⟩
          have now : u.record? h₀ = some (r₀.armed (s.condition .contact) s.berthHold s.config.timeouts.pay) := by
            rw [passed.dealt.records, at_h₀, Option.map_some, if_pos mem, if_pos arms₀]
          have engaged := free h₀ _ now ((Record.station_armed _ _ _ r₀).trans on₀)
          rw [Record.engaged_armed] at engaged
          cases engaged
      · rintro ⟨free, none'⟩ h' r' at_h' on
        rw [passed.dealt.records] at at_h'
        obtain ⟨q, at_q, rfl⟩ := Option.map_eq_some_iff.mp at_h'
        by_cases mem : h' ∈ before
        · rw [if_pos mem] at on ⊢
          cases arms : s.arms member h' q with
          | false => rw [arms] at on; exact free h' q at_q on
          | true =>
            rw [arms, if_pos rfl, Record.station_armed] at on
            refine absurd ?_ (List.any_eq_false.mp none' h' (List.mem_finRange h'))
            rw [Bool.and_eq_true, decide_eq_true_eq, s.holds_iff]
            exact ⟨((State.mem_before split h').mp mem).1, q, at_q, by
              rw [Bool.and_eq_true, decide_eq_true_eq]; exact ⟨on, State.mayArm_of_arms arms⟩⟩
        · rw [if_neg mem] at on ⊢
          exact free h' q at_q on
    refine ⟨?_, fun _ => ?_⟩
    · show (armRefusal u r).isNone = _
      rw [armRefusal_isNone, presence, zeroing, taken, State.arms, State.mayArm, named, Bool.true_and]
      ac_rfl
    · show armRecord u h = _
      rw [armRecord_eq at_h, passed.dealt.condition, passed.dealt.berthHold, passed.dealt.config]

end Sys2Proof.Machine

namespace Sys2Proof

open Machine

/-- Settles O26: the three requests act on a record by its state, and RESUME also by its station's last reply. -/
theorem disarmHoldLineAndResume : Obligations.DisarmHoldLineAndResume := by
  refine ⟨?_, ?_, ?_⟩
  · exact disarmAction.actsOn (whole := fun _ => none)
      (fun s t kind value result out waits taken => sendRequest_answered waits .disarm [kind, value] rfl taken)
      (fun _ => rfl) (fun _ _ => rfl) (fun s h r at_h => State.modifyRecord_some at_h _) fun _ _ _ _ => rfl
  · exact holdLineAction.actsOn (whole := fun _ => none)
      (fun s t kind value result out waits taken => sendRequest_answered waits .holdLine [kind, value] rfl taken)
      (fun _ => rfl) (fun _ _ => rfl) (fun s h r at_h => State.modifyRecord_some at_h _) fun _ _ _ _ => rfl
  · exact resumeAction.actsOn (whole := fun _ => none)
      (fun s t kind value result out waits taken => sendRequest_answered waits .resume [kind, value] rfl taken)
      (fun _ => rfl) (fun _ _ => rfl) (fun s h r at_h => State.modifyRecord_some at_h _)
      fun s u r entries => by rw [entries]

/-- Settles O27: SET writes a pending part in the states that permit it, and a value too high refuses it whole. -/
theorem setWritesPendingParts : Obligations.SetWritesPendingParts := by
  have sends (p b : Half) {s t : State} {kind value : Byte} {result : Result} {out : List Byte} (waits : s.port.Awaits)
      (taken : takeSet kind value p b s = (t, { result := result, body := out })) :
      exec (.set kind value p b) s = .next (t.answering s .set result out) :=
    sendRequest_answered waits .set ([kind, value] ++ halfBytes p ++ halfBytes b) rfl (by
      rw [← taken]
      simp [runRequest, byteAt, halfAt, halfBytes, append_halfBytes])
  refine ⟨fun p b low low' => ?_, fun s kind value p b waits high target => sends p b waits ?_⟩
  · refine (setAction p.toNat b.toNat).actsOn (whole := fun _ => if 8191 < p.toNat || 8191 < b.toNat then some .range else none)
      (fun s t kind value result out waits taken => sends p b waits taken)
      (fun _ => if_neg (by simp [low, low'])) (fun s r => ?_) (fun s h r at_h => State.modifyRecord_some at_h _)
      fun _ _ _ _ => rfl
    show unlessState _ s r = _
    rw [unlessState_eq]
    cases r.state <;> rfl
  · have whole : (if 8191 < p.toNat || 8191 < b.toNat then some Result.range else none) = some .range :=
      if_pos (by simpa using high)
    rw [takeSet]
    rcases target with ⟨rfl, named⟩ | group | rfl
    · obtain ⟨there, -⟩ := (s.names_iff _).mp named
      obtain ⟨r, at_ref⟩ := there
      rw [RecordAction.onTarget_reference, withReference_named named at_ref]
      simp only [whole]
      rfl
    · obtain ⟨rfl, inside⟩ := group
      have named : memberTest 1 value = some fun r => decide (r.group.val = value.toNat) := if_pos (Nat.lt_succ_of_le inside)
      rw [RecordAction.onTarget_members named]
      simp only [whole]
      rfl
    · have named : memberTest 2 value = some fun _ => true := rfl
      rw [RecordAction.onTarget_members named]
      simp only [whole]
      rfl

/-- Settles O30: APPLY acts on a record with a pending part, alone or as one of the members of a target. -/
theorem applyMakesThePendingPartActive : Obligations.ApplyMakesThePendingPartActive := by
  have sends {s t : State} {kind value : Byte} {result : Result} {out : List Byte} (waits : s.port.Awaits)
      (taken : takeApply kind value s = (t, { result := result, body := out })) :
      exec (.apply kind value) s = .next (t.answering s .apply result out) :=
    sendRequest_answered waits .apply [kind, value] rfl taken
  have refusal (s : State) (r : Record) : applyAction.refusal s r = if r.applies then none else some .badState := rfl
  refine ⟨fun s ref r waits named at_ref => ?_, fun s kind value member waits named shared => ?_⟩
  · have whole : takeApply 0 ref s = match applyAction.refusal s r with
        | some result => refuse s result
        | none => doneCounts (applyRecord s (Ref.ofByte ref).handle) 1 0 := by
      rw [takeApply, RecordAction.onTarget_reference, withReference_named named at_ref]
      rfl
    refine ⟨fun no => sends waits ?_, fun applies rests => sends waits ?_, fun applies hauls runs => sends waits ?_⟩
    · rw [whole, refusal, no]; rfl
    · have silent : r.applyCommand s.berthHold = none := by
        rw [Record.applyCommand, if_neg]
        rcases rests with other | hold
        · simp [other]
        · simp [hold]
      rw [whole, refusal, applies, applyRecord_eq at_ref applies, silent]
      rfl
    · have gives : r.applyCommand s.berthHold = some (.haulUntil (r.afterApply.p - r.afterApply.b)) := by
        rw [Record.applyCommand, hauls, runs]; rfl
      rw [whole, refusal, applies, applyRecord_eq at_ref applies, gives]
      rfl
  · have engaged : ∀ (r : Record) (c : Command), r.applyCommand s.berthHold = some c → r.state.engaged = true := by
      intro r c gives
      have hauls := (Option.ite_none_right_eq_some.mp gives).1
      rw [Bool.and_eq_true, decide_eq_true_eq] at hauls
      rw [hauls.1]; rfl
    have w : applyAction.Weighs s (s.handlesWith member) (fun _ => Record.applies) (fun _ => Record.afterApply)
        fun _ r => r.applyCommand s.berthHold := by
      refine ⟨s.Weighs_there member, fun h _ h' _ r r' c c' at_h at_h' on _ _ one two => ?_,
        fun before h r u _ passed _ at_h => ⟨?_, fun applies => ?_⟩⟩
      · obtain rfl := shared.engaged h h' r r' at_h at_h' on (engaged r c one) (engaged r' c' two)
        obtain rfl := Option.some.inj (at_h.symm.trans at_h')
        exact Option.some.inj (one.symm.trans two)
      · rw [refusal]; cases r.applies <;> rfl
      · exact (applyRecord_eq at_h applies).trans (by rw [passed.dealt.berthHold])
    obtain ⟨t, dealt, answer⟩ := RecordAction.onMembers_dealt w
    refine ⟨t, dealt.congr (fun _ _ _ => rfl) fun st => ?_, sends waits ?_⟩
    · rw [State.commandFrom_engaged shared (cmd := fun r => if member r && r.applies then r.applyCommand s.berthHold else none)
        fun r c gives => engaged r c (Option.ite_none_right_eq_some.mp gives).2]
      refine congrArg (s.engagedRecord st).bind (funext fun r => ?_)
      rw [Record.applyCommand]
      cases member r <;> cases r.applies <;> cases s.berthHold <;> simp
    · rw [takeApply, RecordAction.onTarget_members named, answer, State.countP_handlesWith, State.countP_not_handlesWith]
      rfl

/-- Settles O25: the checks of ARM in order and its effect on one record; and, for a target's members, which of them are
armed. -/
theorem armChecksAndArms : Obligations.ArmChecksAndArms := by
  have sends {s t : State} {kind value : Byte} {result : Result} {out : List Byte} (waits : s.port.Awaits)
      (taken : takeArm kind value s = (t, { result := result, body := out })) :
      exec (.arm kind value) s = .next (t.answering s .arm result out) :=
    sendRequest_answered waits .arm [kind, value] rfl taken
  refine ⟨fun s ref r waits named at_ref => ?_, fun s kind value member waits named =>
    ⟨fun off => sends waits ?_, fun on => ?_⟩⟩
  · have whole : takeArm 0 ref s = match unlessConfigured s with
        | some result => refuse s result
        | none => match armRefusal s r with
          | some result => refuse s result
          | none => doneCounts (armRecord s (Ref.ofByte ref).handle) 1 0 := by
      rw [takeArm, RecordAction.onTarget_reference, withReference_named named at_ref]
      rfl
    refine ⟨fun off => sends waits ?_, fun on => ?_⟩
    · rw [whole, unlessConfigured, off]; rfl
    have checked : takeArm 0 ref s = match armRefusal s r with
        | some result => refuse s result
        | none => doneCounts (armRecord s (Ref.ofByte ref).handle) 1 0 := by
      rw [whole, unlessConfigured, on]; rfl
    refine ⟨fun other => sends waits ?_, fun prepared => ⟨fun gone => sends waits ?_, fun present =>
      ⟨fun busy => sends waits ?_, fun free => ⟨fun zeroing => sends waits ?_, fun still => ?_⟩⟩⟩⟩
    · rw [checked, armRefusal, if_pos other]; rfl
    · rw [checked, armRefusal, if_neg (not_not_intro prepared), if_pos gone]; rfl
    · have taken : (s.engagedOn r.station).isSome = true := by
        rw [Option.isSome_iff_ne_none, Ne, s.engagedOn_none_iff]
        obtain ⟨h', r', at_h', on', works⟩ := busy
        exact fun none' => by simp [none' h' r' at_h' on'] at works
      rw [checked, armRefusal, if_neg (not_not_intro prepared), if_neg (not_not_intro present), if_pos taken]; rfl
    · have none' := (s.engagedOn_none_iff r.station).mpr free
      rw [checked, armRefusal, if_neg (not_not_intro prepared), if_neg (not_not_intro present), none',
        if_neg (by exact Bool.false_ne_true), if_pos zeroing]
      rfl
    · have none' := (s.engagedOn_none_iff r.station).mpr free
      have passes : armRefusal s r = none := by
        rw [armRefusal, if_neg (not_not_intro prepared), if_neg (not_not_intro present), none',
          if_neg (by exact Bool.false_ne_true), still, if_neg Bool.false_ne_true]
      rw [passes] at checked
      have acts := armRecord_eq at_ref
      refine ⟨fun lost => sends waits ?_, fun made => sends waits ?_⟩
      · rw [checked]
        show doneCounts (armRecord s _) 1 0 = _
        rw [acts, lost]
        rfl
      · rw [checked]
        show doneCounts (armRecord s _) 1 0 = _
        rw [acts, made, State.afterMove]
        cases s.berthHold <;> rfl
  · rw [takeArm, RecordAction.onTarget_members named, unlessConfigured, off]; rfl
  · obtain ⟨t, dealt, answer⟩ := RecordAction.onMembers_dealt (armAction_weighs s member)
    have both (h : Fin 32) (r : Record) : (member r && s.arms member h r) = s.arms member h r := by
      cases named : member r with
      | true => rfl
      | false => rw [State.arms, State.mayArm, named]; rfl
    simp only [both] at dealt
    have acted : (s.handlesWith member).countP (fun h => s.holds h (s.arms member h)) = s.armedCount member := by
      rw [State.countP_handlesWith]
      simp only [both]
      rfl
    refine ⟨t, dealt.congr (fun _ _ _ => rfl) fun st => ?_, sends waits ?_⟩
    · simp only [Record.armCommand]
      cases s.condition .contact with
      | false =>
        simp only [Bool.false_eq_true, if_false, ite_self, Option.eq_none_iff_forall_ne_some]
        intro c gives
        obtain ⟨h', -, r', -, -, gave⟩ := State.commandFrom_some gives
        cases gave
      | true => exact State.commandFrom_map (s.arms member) _ _ st
    · rw [takeArm, RecordAction.onTarget_members named, unlessConfigured, on, if_pos rfl, answer, State.countP_skipped, acted]
      rfl

end Sys2Proof
end

section
/-! PROOF. The stages of a staged release (R96, R100 to R105): what a start of a stage does to its group, its members and their
stations, and how starts in several groups come to one; the end of a stage, and a member that leaves it. -/

namespace Sys2Proof.Machine

variable {s t u : State}

/-! ### The first stage with members (R101) -/

theorem State.firstStage_cons (s : State) (g : Fin 8) (stage : Stage) (rest : List Stage) :
    s.firstStage g (stage :: rest) = if (s.stageMembers g stage).isEmpty then s.firstStage g rest else some stage := by
  rw [State.firstStage, List.find?_cons]
  cases (s.stageMembers g stage).isEmpty <;> rfl

theorem State.startStage_eq (g : Fin 8) (stages : List Stage) (s : State) : State.startStage g stages s =
    match s.firstStage g stages with
    | some stage => s.beginStage g stage (s.stageMembers g stage)
    | none => s.putGroup g .idle := by
  induction stages with
  | nil => rfl
  | cons stage rest ih =>
    rw [State.startStage, State.firstStage_cons]
    cases members : s.stageMembers g stage with
    | nil => exact ih
    | cons h l => simp only [List.isEmpty_cons, Bool.false_eq_true, if_false, members]

theorem State.stageMembers_ne_nil {g : Fin 8} {stages : List Stage} {stage : Stage}
    (first : s.firstStage g stages = some stage) : s.stageMembers g stage ≠ [] := by
  have := List.find?_some first
  simpa using this

/-- The members of a stage are the records that join it. -/
theorem State.stageMembers_eq (s : State) (g : Fin 8) (stage : Stage) :
    s.stageMembers g stage = s.handlesWith fun r => r.joins g stage := rfl

/-! ### Stages run in several groups -/

/-- The entry of a group whose first stage with members has been started (R101). -/
def State.entryFor (s : State) (g : Fin 8) (stages : List Stage) : GroupEntry :=
  match s.firstStage g stages with
  | some stage => .running stage ((s.stageMembers g stage).map s.refOf) s.config.timeouts.stage
  | none => .idle

/-- The stage that each group starts, of the stages that it runs through. -/
def State.starts (s : State) (runs : Fin 8 → Option (List Stage)) (g : Fin 8) : Option Stage :=
  (runs g).bind (s.firstStage g)

/-- Between two states the groups said have run through the stages said to the first with members, and nothing else has
happened (R101, R104). -/
structure State.StagesRun (s t : State) (runs : Fin 8 → Option (List Stage)) : Prop where
  groups : ∀ g, t.groupEntry g = match runs g with
    | some stages => s.entryFor g stages
    | none => s.groupEntry g
  rest : { s with groups := t.groups }.Dealt t
    (fun _ r => if r.joinsAny (s.starts runs) then r.releasing s.config.timeouts.clear else r)
    (fun st => if s.anyOn st (·.joinsAny (s.starts runs)) then some .free else none)

theorem Record.joinsAny_none {r : Record} {starts : Fin 8 → Option Stage} (none' : starts r.group = none) :
    r.joinsAny starts = false := by rw [Record.joinsAny, none']; rfl

theorem Record.joinsAny_some {r : Record} {starts : Fin 8 → Option Stage} {stage : Stage}
    (starts' : starts r.group = some stage) : r.joinsAny starts = r.joins r.group stage := by
  rw [Record.joinsAny, starts']; rfl

/-- A record joins the stage of its own group alone. -/
theorem Record.joins_other {r : Record} {g : Fin 8} (other : r.group ≠ g) (stage : Stage) : r.joins g stage = false := by
  rw [Record.joins, decide_eq_false other]; rfl

/-- A record joins what one group alone starts. -/
theorem Record.joinsAny_single (r : Record) (g : Fin 8) (first : Option Stage) :
    r.joinsAny (fun g' => if g' = g then first else none) = first.any (r.joins g) := by
  rw [Record.joinsAny]
  by_cases here : r.group = g
  · rw [here, if_pos rfl]
  · rw [if_neg here]
    cases first with
    | none => rfl
    | some stage => exact (Record.joins_other here stage).symm

theorem State.anyOn_false (s : State) (st : Fin 24) : s.anyOn st (fun _ => false) = false := by
  simp [State.anyOn, State.holds]

theorem State.anyOn_congr {test test' : Record → Bool} {st : Fin 24}
    (same : ∀ h, (t.record? h).any (fun r => r.station = st && test' r) = (s.record? h).any (fun r => r.station = st && test r)) :
    t.anyOn st test' = s.anyOn st test := congrArg (fun test => (List.finRange 32).any test) (funext same)

theorem State.anyOn_or (s : State) (st : Fin 24) (p q : Record → Bool) :
    (s.anyOn st p || s.anyOn st q) = s.anyOn st fun r => p r || q r := by
  simp only [State.anyOn, State.holds]
  rw [Bool.eq_iff_iff]
  simp only [Bool.or_eq_true, List.any_eq_true, List.mem_finRange, true_and]
  constructor
  · rintro (⟨h, holds⟩ | ⟨h, holds⟩) <;> refine ⟨h, ?_⟩ <;> revert holds <;> cases s.record? h <;> simp <;> tauto
  · rintro ⟨h, holds⟩
    revert holds
    cases at_h : s.record? h with
    | none => simp
    | some r =>
      simp only [Option.any_some, Bool.and_eq_true, Bool.or_eq_true]
      rintro ⟨on, p | q⟩
      · exact .inl ⟨h, by rw [at_h]; simp_all⟩
      · exact .inr ⟨h, by rw [at_h]; simp_all⟩

/-- A stage that begins lets its members go (R97, R101). -/
theorem State.dealt_beginStage (s : State) (g : Fin 8) (stage : Stage) :
    State.Dealt { s with groups := (s.beginStage g stage (s.stageMembers g stage)).groups }
      (s.beginStage g stage (s.stageMembers g stage))
      (fun _ r => if r.joins g stage then r.releasing s.config.timeouts.clear else r)
      (fun st => if s.anyOn st (·.joins g stage) then some .free else none) ∧
    ∀ g', (s.beginStage g stage (s.stageMembers g stage)).groupEntry g' =
      if g' = g then .running stage ((s.stageMembers g stage).map s.refOf) s.config.timeouts.stage else s.groupEntry g' := by
  have passed := State.passed_foldl
    (s := s.putGroup g (.running stage ((s.stageMembers g stage).map s.refOf) s.config.timeouts.stage))
    (rewrite := fun _ r => r.releasing s.config.timeouts.clear) (cmd := fun _ _ => some .free) (act := State.enterReleasing)
    (s.stageMembers g stage) (s.handlesWith_nodup _)
    (fun _ _ _ _ _ _ c c' _ _ _ one two => Option.some.inj (one.symm.trans two))
    (fun u h _ free => State.withRecord_none free _)
    (fun before h r u _ passed _ at_h => by rw [State.enterReleasing_eq at_h, passed.dealt.config]; rfl) _ []
    (List.append_nil _).symm
  have whole : s.beginStage g stage (s.stageMembers g stage) = (s.stageMembers g stage).foldl State.enterReleasing
      (s.putGroup g (.running stage ((s.stageMembers g stage).map s.refOf) s.config.timeouts.stage)) := rfl
  rw [← whole] at passed
  have dealt := passed.dealt
  refine ⟨?_, fun g' => by rw [dealt.groupEntry, State.groupEntry_putGroup]⟩
  have start : ({ s with groups := (s.beginStage g stage (s.stageMembers g stage)).groups } : State) =
      s.putGroup g (.running stage ((s.stageMembers g stage).map s.refOf) s.config.timeouts.stage) := by
    have groups : (s.beginStage g stage (s.stageMembers g stage)).groups =
        (s.putGroup g (.running stage ((s.stageMembers g stage).map s.refOf) s.config.timeouts.stage)).groups := by
      rw [dealt.rest]
    rw [groups]
    rfl
  rw [start]
  refine dealt.congr (fun h r at_h => ?_) fun st => ?_
  · have mem : h ∈ s.stageMembers g stage ↔ r.joins g stage = true := by
      have at_h' : s.record? h = some r := at_h
      simp [s.stageMembers_eq, s.mem_handlesWith, at_h']
    simp only [mem]
  · exact (s.commandFrom_handlesWith _ (fun r => r.joins g stage) st).trans (s.commandFrom_const _ _ st)

theorem State.Dealt.withGroups {f : Fin 32 → Record → Record} {g : Fin 24 → Option Command} (dealt : s.Dealt t f g)
    (groups : Vector GroupEntry 8) :
    State.Dealt { s with groups := groups } { t with groups := groups } f g where
  records := dealt.records
  generations := dealt.generations
  commands := ⟨dealt.commands.entries, dealt.commands.scan⟩
  rest := by
    have rest := dealt.rest
    exact congrArg (fun t : State => { t with groups := groups }) rest

/-- One group runs through its stages (R101). -/
theorem State.stagesRun_startStage (s : State) (g : Fin 8) (stages : List Stage) :
    s.StagesRun (State.startStage g stages s) fun g' => if g' = g then some stages else none := by
  have single : s.starts (fun g' => if g' = g then some stages else none) =
      fun g' => if g' = g then s.firstStage g stages else none := by
    funext g'
    rw [State.starts]
    by_cases here : g' = g
    · subst here; simp
    · simp [here]
  have joins : (fun r : Record => r.joinsAny (s.starts fun g' => if g' = g then some stages else none)) =
      fun r => (s.firstStage g stages).any (r.joins g) := funext fun r => by rw [single, Record.joinsAny_single]
  have joins' := fun r => congrFun joins r
  rw [State.startStage_eq]
  cases first : s.firstStage g stages with
  | none =>
    rw [first] at joins joins'
    refine ⟨fun g' => ?_, ?_⟩
    · rw [State.groupEntry_putGroup]
      by_cases here : g' = g
      · subst here; simp [State.entryFor, first]
      · simp [here]
    · refine (State.Dealt.refl (s.putGroup g .idle)).congr (fun h r _ => ?_) fun st => ?_
      · rw [joins' r]; rfl
      · rw [joins]
        show none = if s.anyOn st (fun _ => false) = true then _ else _
        rw [s.anyOn_false]; rfl
  | some stage =>
    rw [first] at joins joins'
    obtain ⟨dealt, groups⟩ := s.dealt_beginStage g stage
    refine ⟨fun g' => ?_, dealt.congr (fun h r _ => ?_) fun st => ?_⟩
    · rw [groups]
      by_cases here : g' = g
      · subst here; simp [State.entryFor, first]
      · simp [here]
    · rw [joins' r]; rfl
    · rw [joins]; rfl

/-- A group that runs through no stage keeps its members as they stand. -/
theorem State.StagesRun.stageMembers {runs : Fin 8 → Option (List Stage)} (run : s.StagesRun t runs) {g : Fin 8}
    (still : runs g = none) (stage : Stage) : t.stageMembers g stage = s.stageMembers g stage := by
  rw [State.stageMembers_eq, State.stageMembers_eq, State.handlesWith, State.handlesWith]
  refine congrArg (fun test => (List.finRange 32).filter test) (funext fun h => ?_)
  have records : t.record? h = (s.record? h).map _ := run.rest.records h
  rw [State.holds, State.holds, records]
  cases s.record? h with
  | none => rfl
  | some r =>
    rw [Option.map_some, Option.any_some, Option.any_some]
    by_cases here : r.group = g
    · have none' : s.starts runs r.group = none := by rw [State.starts, here, still]; rfl
      rw [Record.joinsAny_none none', if_neg Bool.false_ne_true]
    · rw [Record.joins_other here]
      split
      · exact Record.joins_other (r := r.releasing s.config.timeouts.clear) here stage
      · exact Record.joins_other here stage

theorem State.StagesRun.firstStage {runs : Fin 8 → Option (List Stage)} (run : s.StagesRun t runs) {g : Fin 8}
    (still : runs g = none) (stages : List Stage) : t.firstStage g stages = s.firstStage g stages := by
  rw [State.firstStage, State.firstStage]
  exact congrArg (fun test => stages.find? test) (funext fun stage => by rw [run.stageMembers still])

theorem State.StagesRun.config {runs : Fin 8 → Option (List Stage)} (run : s.StagesRun t runs) : t.config = s.config :=
  run.rest.config

theorem State.StagesRun.interlocked {runs : Fin 8 → Option (List Stage)} (run : s.StagesRun t runs) :
    t.interlocked = s.interlocked := run.rest.interlocked

theorem State.StagesRun.refOf {runs : Fin 8 → Option (List Stage)} (run : s.StagesRun t runs) (h : Fin 32) :
    t.refOf h = s.refOf h := run.rest.refOf h

/-- Groups that run through stages after others have. -/
theorem State.StagesRun.trans {runs runs' : Fin 8 → Option (List Stage)} (first : s.StagesRun t runs)
    (second : t.StagesRun u runs') (disjoint : ∀ g, runs g = none ∨ runs' g = none) :
    s.StagesRun u fun g => (runs g).or (runs' g) := by
  have later : t.starts runs' = s.starts runs' := by
    funext g
    rw [State.starts, State.starts]
    rcases disjoint g with still | still
    · exact congrArg (runs' g).bind (funext fun stages => first.firstStage still stages)
    · rw [still]; rfl
  have both : s.starts (fun g => (runs g).or (runs' g)) = fun g => (s.starts runs g).or (s.starts runs' g) := by
    funext g
    simp only [State.starts]
    rcases disjoint g with still | still
    · rw [still]; rfl
    · rw [still, Option.or_none, Option.bind_none, Option.or_none]
  have apart : ∀ g, s.starts runs g = none ∨ s.starts runs' g = none := by
    intro g
    rcases disjoint g with still | still
    · exact .inl (by rw [State.starts, still]; rfl)
    · exact .inr (by rw [State.starts, still]; rfl)
  have joins : ∀ r : Record, r.joinsAny (fun g => (s.starts runs g).or (s.starts runs' g)) =
      (r.joinsAny (s.starts runs) || r.joinsAny (s.starts runs')) := by
    intro r
    rcases apart r.group with none' | none'
    · rw [Record.joinsAny_none none', Bool.false_or, Record.joinsAny, Record.joinsAny, none', Option.none_or]
    · rw [Record.joinsAny_none none', Bool.or_false, Record.joinsAny, Record.joinsAny, none', Option.or_none]
  have gone : ∀ r : Record, r.joinsAny (s.starts runs) = true → r.joinsAny (s.starts runs') = false ∧
      (r.releasing s.config.timeouts.clear).joinsAny (s.starts runs') = false := by
    intro r goes
    have none' : s.starts runs' r.group = none := (apart r.group).resolve_left fun none' => by
      rw [Record.joinsAny_none none'] at goes; cases goes
    exact ⟨Record.joinsAny_none none', Record.joinsAny_none none'⟩
  refine ⟨fun g => ?_, ?_⟩
  · rw [second.groups, first.groups]
    rcases disjoint g with still | still
    · rw [still, Option.none_or]
      cases runs' g with
      | none => rfl
      | some stages =>
        have members : (fun stage => (t.stageMembers g stage).map t.refOf) = fun stage => (s.stageMembers g stage).map s.refOf :=
          funext fun stage => by rw [first.stageMembers still, funext first.refOf]
        simp only [State.entryFor, first.firstStage still, first.config, fun stage => congrFun members stage]
    · rw [still, Option.or_none]
  · rw [both]
    have one := first.rest.withGroups u.groups
    refine (one.trans second.rest fun st c c' gives gives' => ?_).congr (fun h r _ => ?_) fun st => ?_
    · exact (Option.some.inj (Option.ite_none_right_eq_some.mp gives).2).symm.trans
        (Option.some.inj (Option.ite_none_right_eq_some.mp gives').2)
    · rw [later, joins, first.config]
      cases goes : r.joinsAny (s.starts runs) with
      | true =>
        obtain ⟨-, stays⟩ := gone r goes
        rw [if_pos rfl, stays, if_neg Bool.false_ne_true, Bool.true_or, if_pos rfl]
      | false => rw [if_neg Bool.false_ne_true, Bool.false_or]
    · have same : t.anyOn st (·.joinsAny (t.starts runs')) = s.anyOn st (fun r => r.joinsAny (s.starts runs')) := by
        refine State.anyOn_congr fun h => ?_
        have records : t.record? h = (s.record? h).map _ := first.rest.records h
        rw [later, records]
        cases s.record? h with
        | none => rfl
        | some r =>
          rw [Option.map_some, Option.any_some, Option.any_some]
          cases goes : r.joinsAny (s.starts runs) with
          | true =>
            obtain ⟨stays, stays'⟩ := gone r goes
            rw [if_pos rfl, stays, stays', Bool.and_false, Bool.and_false]
          | false => rw [if_neg Bool.false_ne_true]
      rw [same, funext joins, ← s.anyOn_or]
      cases s.anyOn st fun r => r.joinsAny (s.starts runs) <;>
        cases s.anyOn st fun r => r.joinsAny (s.starts runs') <;> rfl

theorem State.StagesRun.refl (s : State) : s.StagesRun s fun _ => none := by
  refine ⟨fun _ => rfl, (State.Dealt.refl s).congr (fun h r _ => ?_) fun st => ?_⟩
  · rw [Record.joinsAny_none rfl]; rfl
  · have nobody : (fun r : Record => r.joinsAny (s.starts fun _ => none)) = fun _ => false :=
      funext fun r => Record.joinsAny_none rfl
    rw [nobody, s.anyOn_false]; rfl

/-- A pass over the groups in which each runs through its stages or is left as it is. -/
theorem State.foldl_stagesRun {runs : Fin 8 → Option (List Stage)} {act : State → Fin 8 → State} (l : List (Fin 8))
    (nodup : l.Nodup)
    (acts : ∀ before g u, (∃ after, l = before ++ g :: after) →
      s.StagesRun u (fun g' => if g' ∈ before then runs g' else none) → u.groupEntry g = s.groupEntry g →
      act u g = match runs g with
        | some stages => State.startStage g stages u
        | none => u) :
    ∀ before after, l = before ++ after →
      s.StagesRun (before.foldl act s) fun g' => if g' ∈ before then runs g' else none := by
  intro before
  induction before using List.reverseRecOn with
  | nil =>
    intro after _
    have nobody : (fun g' : Fin 8 => if g' ∈ ([] : List (Fin 8)) then runs g' else none) = fun _ => none :=
      funext fun g' => if_neg (List.not_mem_nil)
    rw [nobody]
    exact .refl s
  | append_singleton before g ih =>
    intro after split
    rw [List.append_assoc, List.singleton_append] at split
    have run := ih (g :: after) split
    have fresh : g ∉ before := by
      rw [split] at nodup
      exact fun mem => (List.nodup_append.mp nodup).2.2 g mem g (List.mem_cons_self ..) rfl
    have entry : (before.foldl act s).groupEntry g = s.groupEntry g := by rw [run.groups, if_neg fresh]
    rw [List.foldl_append, List.foldl_cons, List.foldl_nil, acts before g _ ⟨after, split⟩ run entry]
    cases stages : runs g with
    | none =>
      have same : (fun g' => if g' ∈ before ++ [g] then runs g' else none) =
          fun g' => if g' ∈ before then runs g' else none := by
        funext g'
        by_cases here : g' = g
        · subst here; simp [fresh, stages]
        · simp [here]
      rw [same]
      exact run
    | some list =>
      have same : (fun g' => if g' ∈ before ++ [g] then runs g' else none) =
          fun g' => (if g' ∈ before then runs g' else none).or (if g' = g then some list else none) := by
        funext g'
        by_cases here : g' = g
        · subst here; simp [fresh, stages]
        · simp [here]
      rw [same]
      refine run.trans ((before.foldl act s).stagesRun_startStage g list) fun g' => ?_
      by_cases here : g' = g
      · subst here; exact .inl (if_neg fresh)
      · exact .inr (if_neg here)

theorem State.forGroups_stagesRun {runs : Fin 8 → Option (List Stage)} {act : Fin 8 → State → State}
    (acts : ∀ g u, u.groupEntry g = s.groupEntry g → u.interlocked = s.interlocked →
      act g u = match runs g with
        | some stages => State.startStage g stages u
        | none => u) :
    s.StagesRun (s.forGroups act) runs := by
  have run := State.foldl_stagesRun (s := s) (runs := runs) (act := fun u g => act g u) (List.finRange 8)
    (List.nodup_finRange 8) (fun _ g u _ run same => acts g u same run.interlocked) _ [] (List.append_nil _).symm
  have all : (fun g' => if g' ∈ List.finRange 8 then runs g' else none) = runs :=
    funext fun g' => if_pos (List.mem_finRange g')
  rw [all] at run
  exact run

/-- A run through stages in the words of the statements, from a state in which the groups that come to no stage are NONE. -/
theorem State.StagesRun.started {runs : Fin 8 → Option (List Stage)} (run : s.StagesRun t runs) {s' : State}
    {starts : Fin 8 → Option Stage} (base : ∃ groups, s' = { s with groups := groups })
    (same : ∀ g, starts g = s.starts runs g)
    (entries : ∀ g, starts g = none → s'.groupEntry g = if (runs g).isSome then .idle else s.groupEntry g) :
    s'.StagesStarted t starts := by
  obtain rfl : starts = s.starts runs := funext same
  obtain ⟨groups, rfl⟩ := base
  refine ⟨fun g => ?_, run.rest⟩
  rw [run.groups]
  have entry := entries g
  rw [State.starts] at entry ⊢
  cases stages : runs g with
  | none => rw [stages] at entry; exact (entry rfl).symm
  | some list =>
    rw [stages] at entry
    simp only [Option.bind_some, State.entryFor] at entry ⊢
    cases first : s.firstStage g list with
    | none => exact (entry first).symm
    | some stage => rfl

end Sys2Proof.Machine
end

section
/-! PROOF. The end of a stage and what leaves one (R102 to R104, R113), the staged releases of a group and of the berth (R100,
R105), and the failures that take a record to FAULT (R26, R28, R43 to R45, R123). -/

namespace Sys2Proof.Machine

variable {s t u : State}

/-! ### The end of a stage (R103, R104) -/

/-- One group started from a state in which it is NONE. -/
theorem State.stagesStarted_startStage (s : State) (g : Fin 8) (stages : List Stage) :
    (s.putGroup g .idle).StagesStarted (State.startStage g stages s) fun g' =>
      if g' = g then s.firstStage g stages else none := by
  refine (s.stagesRun_startStage g stages).started ⟨_, rfl⟩ (fun g' => ?_) fun g' _ => ?_
  · rw [State.starts]
    by_cases here : g' = g
    · subst here; simp
    · simp [here]
  · rw [State.groupEntry_putGroup]
    by_cases here : g' = g <;> simp [here]

theorem State.stageEnded_ends (s : State) (g : Fin 8) (stage : Stage) : s.StageEnded (s.stageEnded g stage) g stage := by
  rw [State.StageEnded, State.stageEnded]
  by_cases waits : s.interlocked = true ∧ stage ≠ .spring
  · have waits' : (s.interlocked && decide (stage ≠ .spring)) = true := by simpa using waits
    rw [if_pos waits, if_pos waits']
  · have starts : ¬ (s.interlocked && decide (stage ≠ .spring)) = true := by simpa using waits
    rw [if_neg waits, if_neg starts]
    exact s.stagesStarted_startStage g stage.later

theorem State.removeMember_left (s : State) (g : Fin 8) (ref : Ref) : s.MemberLeft (s.removeMember g ref) g ref := by
  rw [State.MemberLeft, State.removeMember]
  cases entry : s.groupEntry g with
  | idle => rfl
  | waiting ended => rfl
  | running stage members remaining =>
    by_cases listed : ref ∈ members
    · simp only [if_pos listed]
      cases left : members.filter (· ≠ ref) with
      | nil =>
        have all : members.all (· = ref) = true := by
          rw [List.all_eq_true]
          intro m mem
          simpa using List.filter_eq_nil_iff.mp left m mem
        rw [if_pos all]
        exact s.stageEnded_ends g stage
      | cons m rest =>
        have notAll : ¬ members.all (· = ref) = true := by
          rw [List.all_eq_true]
          intro all
          have mem : m ∈ members.filter (· ≠ ref) := by rw [left]; exact List.mem_cons_self ..
          obtain ⟨mem, differs⟩ := List.mem_filter.mp mem
          have same := all m mem
          simp_all
        rw [if_neg notAll]
    · simp only [if_neg listed]

/-! ### Entry to FAULT (R26) -/

theorem State.enterFault_left {h : Fin 32} {r : Record} (at_h : s.record? h = some r) (cause : FaultCause) :
    (s.afterFault h r cause).MemberLeft (s.enterFault h cause) r.group (s.refOf h) := by
  rw [State.enterFault, State.withRecord_some at_h]
  exact State.removeMember_left ..

/-- A failure reaches a record by its state (R43 to R45). -/
theorem State.failRecord_fails {h : Fin 32} {r : Record} (at_h : s.record? h = some r) (fails : r.state.fails = true)
    (cause : FaultCause) : s.failRecord h cause = s.enterFault h cause := by
  rw [State.failRecord, State.withRecord_some at_h]
  cases state : r.state <;> first | rfl | (rw [state] at fails; cases fails)

theorem State.failRecord_armed {h : Fin 32} {r : Record} (at_h : s.record? h = some r) (armed : r.state = .armed)
    (cause : FaultCause) : s.failRecord h cause = s.putRecord h { r with state := .prepared, deadline := .absent } := by
  rw [State.failRecord, State.withRecord_some at_h, armed]

theorem State.failRecord_fault {h : Fin 32} {r : Record} (at_h : s.record? h = some r) (faulted : r.state = .fault)
    (cause : FaultCause) : s.failRecord h cause = s := by
  rw [State.failRecord, State.withRecord_some at_h, faulted]

/-- A record rewritten just before it enters FAULT. -/
theorem State.afterFault_putRecord (s : State) (h : Fin 32) (r : Record) (cause : FaultCause) :
    (s.putRecord h r).afterFault h r cause = s.afterFault h r cause := by
  rw [State.afterFault, State.putRecord_putRecord, State.afterFault]

/-! ### Expiries (R28 to R30, R103) -/

theorem exec_deadlineExpiry (s : State) (h : Fin 32) (elapsed : Nat) :
    exec (.deadlineExpiry ⟨h, elapsed⟩) s = .next (s.expireDeadline h elapsed) := rfl

theorem exec_stageDeadlineExpiry (s : State) (g : Fin 8) (elapsed : Nat) :
    exec (.stageDeadlineExpiry ⟨g, elapsed⟩) s = .next (s.expireStage g elapsed) := rfl

theorem State.expireDeadline_none {h : Fin 32} {elapsed : Nat} (stays : ∀ r, s.record? h = some r → r.runsOut elapsed = none) :
    s.expireDeadline h elapsed = s.passTime elapsed := by
  rw [State.expireDeadline]
  cases at_h : s.record? h with
  | none => rfl
  | some r => rw [Option.bind_some, stays r at_h]

theorem State.expireDeadline_some {h : Fin 32} {r : Record} {elapsed : Nat} {cause : FaultCause} (at_h : s.record? h = some r)
    (runsOut : r.runsOut elapsed = some cause) : s.expireDeadline h elapsed = (s.passTime elapsed).enterFault h cause := by
  rw [State.expireDeadline, at_h, Option.bind_some, runsOut]

theorem LineState.expiryCause_none {state : LineState} (untimed : state.timed = false) : state.expiryCause = none := by
  cases state <;> first | rfl | cases untimed

/-! ### The sample of a good reply (R24) -/

/-- A sample given to the engaged record of a slot's station: M and L written, then what its state does with the flags. -/
theorem State.sample_eq {h : Fin 32} {r : Record} (at_h : s.record? h = some r) (f : Frame) : s.sample h f =
    if f.stationFault then (s.putRecord h (r.sampled f)).failRecord h .stationFault
    else match r.state with
      | .tending => (s.putRecord h (r.sampled f)).regulateTending h (r.sampled f)
          ((s.entry r.station).command.isNone && f.moveDone)
      | .held => (s.putRecord h (r.sampled f)).regulateHeld h (r.sampled f)
          ((s.entry r.station).command.isNone && f.moveDone)
      | _ => if (s.entry r.station).command.isNone && !s.paused r then
          (s.putRecord h (r.sampled f)).actOnFlags h (r.sampled f) r.len f else s.putRecord h (r.sampled f) :=
  State.withRecord_some at_h _

/-- The state in which a sample finds its record. -/
theorem State.Receives.sample {inTime : Bool} {chars : List LinkChar} {slot : LinkSlot} {f : Frame} {extra : List LinkChar}
    (good : s.Receives inTime chars slot f extra) {h : Fin 32} {r : Record} (engaged : s.engagedOn s.scan.station = some h)
    (at_h : s.record? h = some r) : r.station = s.scan.station ∧ (s.afterReply slot f extra).record? h = some r ∧
      exec (.slotEnd inTime chars) s = .next ((s.afterReply slot f extra).sample h f) := by
  obtain ⟨r', at_h', on, -⟩ := State.engagedOn_some engaged
  obtain rfl := Option.some.inj (at_h.symm.trans at_h')
  exact ⟨on, at_h, by rw [exec_slotEnd, good.endSlot, engaged]⟩

/-! ### A miss (R123) -/

/-- What a QUERY that is not answered leaves to be asked (R130). -/
def StationEntry.asked (e : StationEntry) (slot : LinkSlot) : Option DiagKind :=
  match slot.kind with
  | .query k => some (e.pendingKind.getD k)
  | _ => e.pendingKind

theorem StationEntry.missed_eq (e : StationEntry) (slot : LinkSlot) : e.missed slot =
    if e.presence = .present then
      if 2 ≤ e.missCount then
        { e with
          pendingKind := e.asked slot, presence := .lost, missCount := 3, zeroing := false
          command := if e.command = some .zero then none else e.command }
      else { e with pendingKind := e.asked slot, missCount := e.missCount + 1 }
    else { e with pendingKind := e.asked slot } := by
  have three : 3 ≤ e.missCount + 1 ↔ 2 ≤ e.missCount := by omega
  rw [StationEntry.missed, StationEntry.asked]
  cases slot.kind <;> simp only [StationEntry.askAgain, three] <;> rfl

theorem State.miss_eq (s : State) (st : Fin 24) (slot : LinkSlot) : s.miss st slot =
    if (s.entry st).presence = .present ∧ ((s.entry st).missed slot).presence = .lost then
      match s.engagedOn st with
      | some h => (s.putEntry st ((s.entry st).missed slot)).failRecord h .stationLost
      | none => s.putEntry st ((s.entry st).missed slot)
    else s.putEntry st ((s.entry st).missed slot) := by
  rw [State.miss]
  simp only [State.entry_putEntry_self, Bool.and_eq_true, decide_eq_true_eq]
  rfl

/-! ### Staged release (R100, R105) -/

theorem State.count_eq_zero (s : State) {test : Record → Bool} (nobody : ∀ r, test r = false) : s.count test = 0 := by
  obtain rfl : test = fun _ => false := funext nobody
  rw [State.count, State.handlesWith]
  simp [State.holds]

/-- How many members the entry of a group has that has run through stages. -/
theorem State.memberCount_entryFor (s : State) (g : Fin 8) (stages : List Stage) : (s.entryFor g stages).memberCount =
    s.count fun r => (s.firstStage g stages).any (r.joins g) := by
  rw [State.entryFor]
  cases s.firstStage g stages with
  | none => exact (s.count_eq_zero fun _ => rfl).symm
  | some stage => exact List.length_map _

theorem State.count_or (s : State) {p q : Record → Bool} (apart : ∀ r, ¬ (p r = true ∧ q r = true)) :
    s.count (fun r => p r || q r) = s.count p + s.count q := by
  simp only [State.count, State.handlesWith, ← List.countP_eq_length_filter]
  generalize List.finRange 32 = l
  induction l with
  | nil => rfl
  | cons h l ih =>
    have either : s.holds h (fun r => p r || q r) = (s.holds h p || s.holds h q) := by
      rw [State.holds, State.holds, State.holds]
      cases s.record? h <;> rfl
    have notBoth : ¬ (s.holds h p = true ∧ s.holds h q = true) := by
      rw [State.holds, State.holds]
      cases s.record? h with
      | none => exact fun both => by cases both.1
      | some r => exact apart r
    rw [List.countP_cons, List.countP_cons, List.countP_cons, ih, either]
    cases isP : s.holds h p <;> cases isQ : s.holds h q <;> simp_all <;> omega

/-- Those that a test leaves of those that another names. -/
theorem State.count_sub (s : State) (p q : Record → Bool) (within : ∀ r, q r = true → p r = true) :
    s.count p - s.count q = s.count fun r => p r && !q r := by
  have split := s.count_or (p := q) (q := fun r => p r && !q r) fun r both => by
    cases e : q r <;> simp_all
  have same : (fun r => q r || (p r && !q r)) = p := by
    funext r
    have within' := within r
    cases e : q r <;> simp_all
  rw [same] at split
  omega

theorem Record.group_of_joins {r : Record} {g : Fin 8} {stage : Stage} (joins : r.joins g stage = true) : r.group = g := by
  simp only [Record.joins, Bool.and_eq_true, decide_eq_true_eq] at joins
  exact joins.1.1

/-- The turn of one group in a RELEASE of the berth, and the count of its members. -/
theorem releaseNextGroup_eq (acc : State × Nat) (g : Fin 8) : releaseNextGroup acc g =
    if acc.1.groupEntry g = .idle then
      (State.startStage g allStages acc.1, acc.2 + ((State.startStage g allStages acc.1).groupEntry g).memberCount)
    else acc := by
  rw [releaseNextGroup]
  by_cases idle : acc.1.groupEntry g = .idle <;> simp [idle]

/-- The stages that a RELEASE of the berth has a group run through (R105). -/
def State.berthRuns (s : State) (g : Fin 8) : Option (List Stage) := if s.groupEntry g = .idle then some allStages else none

theorem State.starts_berthRuns (s : State) (g : Fin 8) : s.berthStarts g = s.starts s.berthRuns g := by
  rw [State.berthStarts, State.starts, State.berthRuns]
  split <;> rfl

/-- A RELEASE of the berth, group after group: the stages started and the members counted. -/
theorem State.foldl_releaseNextGroup (s : State) : ∃ t, s.StagesRun t s.berthRuns ∧
    (List.finRange 8).foldl releaseNextGroup (s, 0) = (t, s.count (·.joinsAny s.berthStarts)) := by
  have runs := State.foldl_stagesRun (s := s) (runs := s.berthRuns)
    (act := fun u g => if u.groupEntry g = .idle then State.startStage g allStages u else u) (List.finRange 8)
    (List.nodup_finRange 8) fun before g u _ run same => by
      rw [State.berthRuns, ← same]
      split <;> rfl
  suffices counts : ∀ before after, List.finRange 8 = before ++ after →
      before.foldl releaseNextGroup (s, 0) =
        (before.foldl (fun u g => if u.groupEntry g = .idle then State.startStage g allStages u else u) s,
          s.count (·.joinsAny fun g => if g ∈ before then s.berthStarts g else none)) by
    have all : (fun g : Fin 8 => if g ∈ List.finRange 8 then s.berthStarts g else none) = s.berthStarts :=
      funext fun g => if_pos (List.mem_finRange g)
    have all' : (fun g : Fin 8 => if g ∈ List.finRange 8 then s.berthRuns g else none) = s.berthRuns :=
      funext fun g => if_pos (List.mem_finRange g)
    have whole := counts _ [] (List.append_nil _).symm
    have run := runs _ [] (List.append_nil _).symm
    rw [all] at whole
    rw [all'] at run
    exact ⟨_, run, whole⟩
  intro before
  induction before using List.reverseRecOn with
  | nil => exact fun _ _ => congrArg (Prod.mk s) (s.count_eq_zero fun r => Record.joinsAny_none (if_neg List.not_mem_nil)).symm
  | append_singleton before g ih =>
    intro after split
    rw [List.append_assoc, List.singleton_append] at split
    have run := runs before (g :: after) split
    have fresh : g ∉ before := by
      have nodup := List.nodup_finRange 8
      rw [split] at nodup
      exact fun mem => (List.nodup_append.mp nodup).2.2 g mem g (List.mem_cons_self ..) rfl
    rw [List.foldl_append, List.foldl_cons, List.foldl_nil, List.foldl_append, List.foldl_cons, List.foldl_nil, ih _ split,
      releaseNextGroup_eq]
    generalize before.foldl (fun u g => if u.groupEntry g = .idle then State.startStage g allStages u else u) s = u at run ⊢
    have still : (fun g' => if g' ∈ before then s.berthRuns g' else none) g = none := if_neg fresh
    have entry : u.groupEntry g = s.groupEntry g := by rw [run.groups, if_neg fresh]
    have starts : ∀ r : Record, (r.joinsAny fun g' => if g' ∈ before ++ [g] then s.berthStarts g' else none) =
        ((r.joinsAny fun g' => if g' ∈ before then s.berthStarts g' else none) || (s.berthStarts g).any (r.joins g)) := by
      intro r
      rw [← Record.joinsAny_single]
      by_cases here : r.group = g
      · have none' : (r.joinsAny fun g' => if g' ∈ before then s.berthStarts g' else none) = false :=
          Record.joinsAny_none (if_neg (by rw [here]; exact fresh))
        rw [none', Bool.false_or, Record.joinsAny, Record.joinsAny, here]
        simp
      · have none' : (r.joinsAny fun g' => if g' = g then s.berthStarts g else none) = false :=
          Record.joinsAny_none (if_neg here)
        rw [none', Bool.or_false, Record.joinsAny, Record.joinsAny]
        simp [here]
    have apart : ∀ r : Record, ¬ ((r.joinsAny fun g' => if g' ∈ before then s.berthStarts g' else none) = true ∧
        (s.berthStarts g).any (r.joins g) = true) := by
      rintro r ⟨one, two⟩
      obtain ⟨stage, -, joins⟩ := Option.any_eq_true _ _ |>.mp two
      have none' : (if r.group ∈ before then s.berthStarts r.group else none) = none :=
        if_neg (by rw [Record.group_of_joins joins]; exact fresh)
      rw [Record.joinsAny_none none'] at one
      cases one
    rw [funext starts, s.count_or apart]
    by_cases idle : s.groupEntry g = .idle
    · have members : ((State.startStage g allStages u).groupEntry g).memberCount =
          s.count fun r => (s.berthStarts g).any (r.joins g) := by
        rw [(u.stagesRun_startStage g allStages).groups, if_pos rfl]
        show (u.entryFor g allStages).memberCount = _
        have same : u.entryFor g allStages = s.entryFor g allStages := by
          simp only [State.entryFor, run.firstStage still, run.config, run.stageMembers still, funext run.refOf]
        rw [same, State.memberCount_entryFor, State.berthStarts, if_pos idle]
      rw [if_pos (entry.trans idle), if_pos (entry.trans idle), members]
    · have nobody : s.berthStarts g = none := if_neg idle
      rw [if_neg (by rw [entry]; exact idle), if_neg (by rw [entry]; exact idle), nobody,
        s.count_eq_zero (test := fun r => Option.any (r.joins g) none) fun _ => rfl]
      rfl

theorem exec_release {kind value : Byte} (waits : s.port.Awaits) {t : State} {result : Result} {out : List Byte}
    (taken : takeRelease kind value s = (t, { result := result, body := out })) :
    exec (.release kind value) s = .next (t.answering s .release result out) :=
  sendRequest_answered waits .release [kind, value] rfl taken

theorem takeRelease_group (g : Fin 8) (s : State) : takeRelease 1 (byteOf g) s = releaseGroup s g := by
  have same : (byteOf g.val).toNat = g.val := by simp [byteOf]; omega
  have target : Target.ofBytes 1 (byteOf g) = .ok (.group g) := by
    show (match finOf 8 (byteOf g).toNat with
      | some g => Except.ok (Target.group g)
      | none => Except.error Result.range) = _
    rw [same, finOf_some g.isLt]
  rw [takeRelease, target]

theorem takeRelease_berth (value : Byte) (s : State) : takeRelease 2 value s = releaseBerth s := rfl

end Sys2Proof.Machine

namespace Sys2Proof

open Machine

/-- Settles O33: a deadline that has run out, and STATION FAULT in a sample, by the record's state. -/
theorem failuresEnterFault : Obligations.FailuresEnterFault := by
  refine ⟨fun s h elapsed => ⟨_, s.timePassed_passTime elapsed, fun free => ?_, fun r at_h =>
    ⟨fun stays => ?_, fun n cause runs over' state => ?_⟩⟩, ?_⟩
  · rw [exec_deadlineExpiry, State.expireDeadline_none fun r at_h => by rw [free] at at_h; cases at_h]
  · rw [exec_deadlineExpiry, State.expireDeadline_none]
    intro r' at_h'
    obtain rfl := Option.some.inj (at_h.symm.trans at_h')
    rw [Record.runsOut]
    split
    · next remaining runs =>
      rcases stays with more | untimed
      · rw [if_neg (Nat.not_le.mpr (more _ runs))]
      · rw [LineState.expiryCause_none untimed, ite_self]
    all_goals rfl
  · have runsOut : r.runsOut elapsed = some cause := by
      rw [Record.runsOut, runs]
      simp only [if_pos over']
      rcases state with ⟨e, rfl⟩ | ⟨e, rfl⟩ | ⟨e, rfl⟩ | ⟨e, rfl⟩ | ⟨e, rfl⟩ <;> rw [e] <;> rfl
    refine ⟨_, by rw [exec_deadlineExpiry, State.expireDeadline_some at_h runsOut], ?_⟩
    have passed : (s.passTime elapsed).record? h = some (r.pass elapsed) := by rw [State.record?_passTime, at_h]; rfl
    have refs : (s.passTime elapsed).refOf h = s.refOf h := by
      rw [State.refOf, State.refOf, State.generation_passTime]
    have left := State.enterFault_left passed cause
    rw [refs] at left
    exact left
  · rintro s inTime chars slot f extra h r _ _ good engaged at_h shows rfl rfl
    obtain ⟨-, at_h', taken⟩ := good.sample engaged at_h
    have fault : f.stationFault = true := shows
    rw [taken, State.sample_eq at_h', fault, if_pos rfl]
    have refs : (s.afterReply slot f extra).refOf h = s.refOf h := rfl
    rw [← refs]
    generalize s.afterReply slot f extra = s' at at_h' ⊢
    have at_r := s'.record?_putRecord_self h (r.sampled f)
    refine ⟨fun armed => ?_, fun faulted => ?_, fun fails => ⟨_, rfl, ?_⟩⟩
    · rw [State.failRecord_armed at_r armed, State.putRecord_putRecord]
    · rw [State.failRecord_fault at_r faulted]
    · rw [State.failRecord_fails at_r fails]
      have left := State.enterFault_left at_r .stationFault
      rw [State.afterFault_putRecord, State.refOf_putRecord] at left
      exact left

/-- Settles O39: what a miss does to the station's entry, and to its engaged record when the third makes the station LOST. -/
theorem thirdMissLosesTheStation : Obligations.ThirdMissLosesTheStation := by
  intro s inTime chars
  refine ⟨fun idle => ?_, fun slot inProgress unworked => ?_, ?_⟩
  · rw [exec_slotEnd, State.endSlot, idle]
  · rw [exec_slotEnd, State.endSlot, inProgress]
    show Host.Outcome.next (if (decide (slot.kind = .silent) || !s.slotOver.mapped s.scan.station) = true then s.slotOver
      else _) = _
    rw [if_pos]
    have mapped : s.slotOver.mapped s.scan.station = s.mapped s.scan.station := rfl
    rw [mapped]
    rcases unworked with silent | off
    · simp [silent]
    · simp [off]
  rintro slot _ _ missed rfl rfl
  have whole : exec (.slotEnd inTime chars) s = .next (s.slotOver.miss s.scan.station slot) := by
    rw [exec_slotEnd, missed.endSlot]
  have entry : s.slotOver.entry s.scan.station = s.entry s.scan.station := rfl
  have engagedOn : s.slotOver.engagedOn s.scan.station = s.engagedOn s.scan.station := rfl
  rw [whole, State.miss_eq, entry, engagedOn]
  have after := (s.entry s.scan.station).missed_eq slot
  refine ⟨fun gone => ?_, fun present few => ?_, fun present many => ?_⟩
  · rw [if_neg (fun both => gone both.1), after, if_neg gone]
    rfl
  · have stays : ¬ 2 ≤ (s.entry s.scan.station).missCount := by omega
    rw [if_pos present, if_neg stays] at after
    rw [after, if_neg (fun both => by rw [present] at both; cases both.2)]
    rfl
  · rw [if_pos present, if_pos many] at after
    rintro lost same
    have put : s.slotOver.putEntry s.scan.station ((s.entry s.scan.station).missed slot) = lost := by rw [after, same]; rfl
    rw [if_pos ⟨present, by rw [after]⟩, put]
    refine ⟨fun nobody => by rw [nobody], fun h r engaged at_h => ?_⟩
    have at_lost : lost.record? h = some r := by rw [same]; exact at_h
    have refs : lost.refOf h = s.refOf h := by rw [same]; rfl
    rw [engaged, ← refs]
    refine ⟨fun armed => congrArg Host.Outcome.next (State.failRecord_armed at_lost armed .stationLost),
      fun faulted => congrArg Host.Outcome.next (State.failRecord_fault at_lost faulted .stationLost),
      fun fails => ⟨_, rfl, ?_⟩⟩
    show (lost.afterFault h r .stationLost).MemberLeft (lost.failRecord h .stationLost) r.group (lost.refOf h)
    rw [State.failRecord_fails at_lost fails]
    exact State.enterFault_left at_lost .stationLost

/-- Settles O32: a staged release is refused whole or starts the first stages with members, and an expiry ends a stage. -/
theorem stagedReleaseStartsAndEnds : Obligations.StagedReleaseStartsAndEnds := by
  refine ⟨fun s waits => ⟨fun g => ?_, fun value => ?_⟩, fun s g elapsed => ⟨_, s.timePassed_passTime elapsed, fun more => ?_,
    fun stage members remaining entry ran => ⟨_, exec_stageDeadlineExpiry s g elapsed, ?_⟩⟩⟩
  · refine ⟨fun active => exec_release waits ?_, fun ramp hold busy => exec_release waits ?_, fun ramp hold idle =>
      ⟨State.startStage g allStages s, ?_, exec_release waits ?_⟩⟩
    · rw [takeRelease_group, releaseGroup, if_pos (s.interlocked_iff.mpr active)]
      rfl
    · have off : ¬ s.interlocked = true := by rw [State.interlocked, ramp, hold]; exact Bool.false_ne_true
      rw [takeRelease_group, releaseGroup, if_neg off, if_pos busy]
      rfl
    · refine (s.stagesRun_startStage g allStages).started ⟨s.groups, rfl⟩ (fun g' => ?_) fun g' _ => ?_
      · rw [State.groupStarts, State.starts]
        by_cases here : g' = g
        · subst here; simp
        · simp [here]
      · by_cases here : g' = g
        · subst here; simp [idle]
        · simp [here]
    · have off : ¬ s.interlocked = true := by rw [State.interlocked, ramp, hold]; exact Bool.false_ne_true
      have joins : (fun r : Record => (s.firstStage g allStages).any (r.joins g)) = fun r => r.joinsAny (s.groupStarts g) :=
        funext fun r => (r.joinsAny_single g _).symm
      have acted : ((State.startStage g allStages s).groupEntry g).memberCount = s.count (·.joinsAny (s.groupStarts g)) := by
        rw [(s.stagesRun_startStage g allStages).groups, if_pos rfl]
        show (s.entryFor g allStages).memberCount = _
        rw [State.memberCount_entryFor, joins]
      have skipped : (s.handlesWith fun r => r.group = g).length - s.count (·.joinsAny (s.groupStarts g)) =
          s.count fun r => r.group = g && !r.joinsAny (s.groupStarts g) := by
        refine s.count_sub (fun r => r.group = g) _ fun r joins' => ?_
        rw [← congrFun joins r] at joins'
        obtain ⟨stage, -, here⟩ := (Option.any_eq_true _ _).mp joins'
        exact decide_eq_true (Record.group_of_joins here)
      rw [takeRelease_group, releaseGroup, if_neg off, if_neg (not_not_intro idle)]
      show doneCounts _ _ (_ - _) = _
      rw [acted, skipped]
      rfl
  · refine ⟨fun active => exec_release waits ?_, fun ramp hold => ?_⟩
    · rw [takeRelease_berth, releaseBerth, if_pos (s.interlocked_iff.mpr active)]
      rfl
    · have off : ¬ s.interlocked = true := by rw [State.interlocked, ramp, hold]; exact Bool.false_ne_true
      obtain ⟨t, run, whole⟩ := s.foldl_releaseNextGroup
      refine ⟨t, run.started ⟨s.groups, rfl⟩ s.starts_berthRuns fun g _ => ?_, exec_release waits ?_⟩
      · rw [State.berthRuns]
        by_cases idle : s.groupEntry g = .idle <;> simp [idle]
      · have skipped := s.count_sub (fun _ => true) (·.joinsAny s.berthStarts) fun _ _ => rfl
        simp only [Bool.true_and] at skipped
        rw [takeRelease_berth, releaseBerth, if_neg off]
        show doneCounts _ _ (s.count (fun _ => true) - _) = _
        rw [whole, skipped]
        rfl
  · rw [exec_stageDeadlineExpiry, State.expireStage]
    split
    · next stage members remaining entry => rw [if_neg (Nat.not_le.mpr (more stage members remaining entry))]
    all_goals rfl
  · rw [State.expireStage, entry]
    show State.StageEnded _ (if remaining ≤ elapsed then _ else _) g stage
    rw [if_pos ran]
    exact State.stageEnded_ends ..

end Sys2Proof
end

section
/-! PROOF. What a record does next: RETIRE and ABANDON (R15 to R18), CLEAR FAULT (R46), and the sample of a good reply in every
state (R24, R25, R36 to R39, R53 to R55, R106 to R108). -/

namespace Sys2Proof.Machine

variable {s t u : State}

/-! ### RETIRE and ABANDON (R15 to R18) -/

theorem exec_retire {kind value : Byte} (waits : s.port.Awaits) {t : State} {result : Result} {out : List Byte}
    (taken : takeRetire kind value s = (t, { result := result, body := out })) :
    exec (.retire kind value) s = .next (t.answering s .retire result out) :=
  sendRequest_answered waits .retire [kind, value] rfl taken

/-- Whether RETIRE acts on a record (R15). -/
def Record.retires (r : Record) : Bool := r.state = .stowed || r.state = .prepared

theorem retireAction_weigh {h : Fin 32} {r : Record} (at_h : u.record? h = some r) (m n : Nat) :
    retireAction.weigh (u, m, n) h = if r.retires then (u.freeSlot h, m + 1, n) else (u, m, n + 1) := by
  rw [RecordAction.weigh]
  simp only [at_h]
  show (match (if r.retires then none else some Result.badState) with
    | none => (u.freeSlot h, m + 1, n)
    | some _ => (u, m, n + 1)) = _
  cases r.retires <;> rfl

/-- A RETIRE on the members of a target, in one: the slots of those in STOWED or PREPARED are freed (R15, R17). -/
theorem retire_members (members : List (Fin 32)) (nodup : members.Nodup) (there : ∀ h ∈ members, ∃ r, s.record? h = some r) :
    ∃ t, members.foldl retireAction.weigh (s, 0, 0) =
        (t, members.countP (fun h => s.holds h Record.retires), members.countP (fun h => !s.holds h Record.retires)) ∧
      t = { s with table := t.table } ∧
      ∀ h, t.record? h = (if h ∈ members ∧ s.holds h Record.retires then none else s.record? h) ∧
        t.generation h = if h ∈ members ∧ s.holds h Record.retires then s.generation h + 1 else s.generation h := by
  induction members using List.reverseRecOn with
  | nil => exact ⟨s, rfl, rfl, fun h => by simp⟩
  | append_singleton before h ih =>
    have fresh : h ∉ before := fun mem => (List.nodup_append.mp nodup).2.2 h mem h (List.mem_cons_self ..) rfl
    obtain ⟨t, whole, frame, slots⟩ := ih (List.nodup_append.mp nodup).1 fun h mem => there h (List.mem_append_left _ mem)
    obtain ⟨r, at_s⟩ := there h (List.mem_append_right _ (List.mem_cons_self ..))
    have at_h : t.record? h = some r := by rw [(slots h).1, if_neg fun both => fresh both.1, at_s]
    have holds : s.holds h Record.retires = r.retires := by rw [State.holds, at_s]; rfl
    rw [List.foldl_append, whole, List.foldl_cons, List.foldl_nil, retireAction_weigh at_h, List.countP_append,
      List.countP_append, List.countP_singleton, List.countP_singleton, holds]
    have member : ∀ h', h' ∈ before ++ [h] ↔ h' ∈ before ∨ h' = h := fun h' => by simp
    cases retires : r.retires with
    | true =>
      refine ⟨t.freeSlot h, rfl, ?_, fun h' => ?_⟩
      · rw [frame]; rfl
      · rw [State.record?_freeSlot, State.generation_freeSlot, (slots h').1, (slots h').2]
        simp only [member]
        by_cases here : h' = h
        · subst here
          simp [holds, retires, (slots h').2, fresh]
        · simp [here]
    | false =>
      refine ⟨t, rfl, frame, fun h' => ?_⟩
      rw [(slots h').1, (slots h').2]
      simp only [member]
      by_cases here : h' = h
      · subst here
        simp [holds, retires]
      · simp [here]

/-! ### CLEAR FAULT (R46) -/

theorem exec_clearFault {ref : Byte} (waits : s.port.Awaits) {t : State} {result : Result} {out : List Byte}
    (taken : takeClearFault ref s = (t, { result := result, body := out })) :
    exec (.clearFault ref) s = .next (t.answering s .clearFault result out) :=
  sendRequest_answered waits .clearFault [ref] rfl taken

theorem State.enterRewinding_left {h : Fin 32} {r : Record} (at_h : s.record? h = some r) :
    (s.afterMove h { r with state := .rewinding, faultCause := none } .rewind s.config.timeouts.stall).MemberLeft
      (s.enterRewinding h) r.group (s.refOf h) := by
  rw [State.enterRewinding, State.withRecord_some at_h]
  exact State.removeMember_left ..

/-! ### The sample of a good reply, state by state -/

/-- Whether the states that wait for a station act on a sample: it is fresh, and its record is not paused (R25, R47). -/
def State.heeds (s : State) (r : Record) : Bool := (s.entry r.station).command.isNone && !s.paused r

theorem State.sample_waiting {h : Fin 32} {r : Record} (at_h : s.record? h = some r) {f : Frame}
    (sound : f.stationFault = false) (notTending : r.state ≠ .tending) (notHeld : r.state ≠ .held) : s.sample h f =
    if s.heeds r then (s.putRecord h (r.sampled f)).actOnFlags h (r.sampled f) r.len f else s.putRecord h (r.sampled f) := by
  rw [State.sample_eq at_h, sound, if_neg Bool.false_ne_true]
  cases state : r.state <;> first | exact absurd state notTending | exact absurd state notHeld | rfl

theorem State.sample_held {h : Fin 32} {r : Record} (at_h : s.record? h = some r) {f : Frame} (sound : f.stationFault = false)
    (held : r.state = .held) : s.sample h f = s.putRecord h
      (if (s.entry r.station).command.isNone && f.moveDone then (r.sampled f).completeStep else r.sampled f) := by
  rw [State.sample_eq at_h, sound, if_neg Bool.false_ne_true, held]
  exact State.putRecord_putRecord ..

theorem State.sample_tending {h : Fin 32} {r : Record} (at_h : s.record? h = some r) {f : Frame}
    (sound : f.stationFault = false) (tends : r.state = .tending) : s.sample h f =
    (s.putRecord h (r.sampled f)).regulateTending h (r.sampled f) ((s.entry r.station).command.isNone && f.moveDone) := by
  rw [State.sample_eq at_h, sound, if_neg Bool.false_ne_true, tends]

theorem Record.tensionReached_none {r : Record} (pending : r.pending = none) : r.tensionReached = { r with
    state := .tending, deadline := .absent, c := 0, lean := none, slackRun := 0,
    notices := { r.notices with tendingReached := true } } := by
  unfold Record.tensionReached
  split
  · next part pending' => rw [pending] at pending'; cases pending'
  · rfl

theorem Record.tensionReached_some {r : Record} {part : PendingPart} (pending : r.pending = some part) :
    r.tensionReached = { r.applied part with
      state := .tending, deadline := .absent, c := 0, lean := none, slackRun := 0,
      notices := { r.notices with tendingReached := true } } := by
  unfold Record.tensionReached
  split
  · next part' pending' => obtain rfl := Option.some.inj (pending.symm.trans pending'); rfl
  · next none' => exact absurd none' (by rw [pending]; exact Option.some_ne_none part)

/-- What a waiting record does with the flags of a fresh sample, state by state, from the state in which M and L are
written (R25). -/
theorem State.actOnFlags_paying {h : Fin 32} {r : Record} (at_h : s.record? h = some r) (pays : r.state = .paying) (before : Nat)
    (f : Frame) : s.actOnFlags h r before f = s.putRecord h
      (if f.moveDone then { r with state := .makingFast, deadline := .running s.config.timeouts.fast } else r) := by
  rw [State.actOnFlags, pays]
  cases f.moveDone with
  | true => exact State.modifyRecord_some at_h _
  | false => exact (State.putRecord_same at_h).symm

theorem State.actOnFlags_makingFast {h : Fin 32} {r : Record} (at_h : s.record? h = some r) (fast : r.state = .makingFast)
    (before : Nat) (f : Frame) : s.actOnFlags h r before f =
      if f.eyeFast then s.afterMove h { r with state := .hauling } (.haulUntil (r.p - r.b)) s.config.timeouts.haul else s := by
  rw [State.actOnFlags, fast]
  show (if f.eyeFast then s.enterHauling h else s) = _
  rw [State.enterHauling, State.withRecord_some at_h]
  rfl

theorem State.actOnFlags_rewinding {h : Fin 32} {r : Record} (at_h : s.record? h = some r) (rewinds : r.state = .rewinding)
    (before : Nat) (f : Frame) : s.actOnFlags h r before f = s.putRecord h
      (if f.moveDone = true ∧ f.length = 0 then
        { r with state := .stowed, deadline := .absent, notices := { r.notices with stowed := true } }
       else if f.length < before then { r with deadline := .running s.config.timeouts.stall } else r) := by
  rw [State.actOnFlags, rewinds]
  show (if (f.moveDone && decide (f.length = 0)) = true then _ else _) = _
  by_cases done : f.moveDone = true ∧ f.length = 0
  · rw [if_pos done, if_pos (by simpa using done)]
    rfl
  · rw [if_neg done, if_neg (by simpa using done)]
    by_cases shorter : f.length < before
    · rw [if_pos shorter, if_pos shorter]
    · rw [if_neg shorter, if_neg shorter, State.putRecord_same at_h]

theorem State.afterMove_putRecord (s : State) (h : Fin 32) (r r' : Record) (command : Command) (time : Nat) :
    (s.putRecord h r).afterMove h r' command time = s.afterMove h r' command time := by
  rw [State.afterMove, State.afterMove, State.berthHold_putRecord, State.putRecord_putRecord, State.putRecord_putRecord]

/-! ### Tension regulation (R53, R63) -/

/-- A vote leaves the record leaning one way (R61). -/
theorem Record.voted_lean (r : Record) (dir : Dir) (w : Nat) : ∃ lean, (r.voted dir w).lean = some lean := by
  unfold Record.voted
  split
  · exact ⟨dir, rfl⟩
  · next lean e =>
    split
    · exact ⟨lean, e⟩
    · split
      · exact ⟨lean, e⟩
      · exact ⟨dir, rfl⟩

/-- A trip of a record that leans one way, in the words of the statements (R63 to R69). -/
theorem State.trip_eq {h : Fin 32} {r : Record} {dir : Dir} (at_h : s.record? h = some r) (lean : r.lean = some dir) :
    s.trip h = (s.putRecord h (r.afterTrip s.berthHold (s.stepBlocked r.station))).giving r.station
      (r.tripCommand s.berthHold (s.stepBlocked r.station)) := by
  rw [State.trip]
  cases hold : s.berthHold with
  | false => exact State.takeTrip_eq at_h
  | true =>
    have deferred : r.afterTrip true (s.stepBlocked r.station) = { r with tripDeferred := true } := by
      unfold Record.afterTrip
      split
      · next none' => rw [lean] at none'; cases none'
      · rfl
    rw [if_pos rfl, State.modifyRecord_some at_h, deferred]
    rfl

theorem State.giving_putRecord (s : State) (h : Fin 32) (r : Record) (st : Fin 24) (c : Option Command) :
    (s.putRecord h r).giving st c = (s.giving st c).putRecord h r := by
  cases c with
  | none => rfl
  | some c => exact s.giveCommand_putRecord h r st c

theorem State.regulateTending_eq (s : State) (h : Fin 32) (r : Record) (done : Bool) : s.regulateTending h r done =
    if (if done then r.completeStep else r).noteOverload.step.isNone && s.configured then
      if (if done then r.completeStep else r).noteOverload.countSlack.slackRun = 5 then
        (s.putRecord h (if done then r.completeStep else r).noteOverload.countSlack).enterFault h .slack
      else s.voteSample h (if done then r.completeStep else r).noteOverload.countSlack.movePush
    else s.putRecord h (if done then r.completeStep else r).noteOverload := rfl

/-- A voted sample (R53 step 4): inside the band, outside it short of a trip, and outside it with a trip. -/
theorem State.voteSample_inBand {r : Record} (inside : r.error.natAbs ≤ r.b) (s : State) (h : Fin 32) :
    s.voteSample h r = s.putRecord h (r.countProving true) := by
  rw [State.voteSample, Record.inBand, decide_eq_true inside, if_pos rfl]

theorem State.voteSample_votes {r : Record} (outside : r.b < r.error.natAbs)
    (stays : (r.voted r.voteDir r.voteWeight).c ≠ (r.voted r.voteDir r.voteWeight).t) (s : State) (h : Fin 32) :
    s.voteSample h r = s.putRecord h ((r.voted r.voteDir r.voteWeight).countProving false) := by
  rw [State.voteSample, Record.inBand, decide_eq_false (Nat.not_le.mpr outside), if_neg Bool.false_ne_true]
  show State.modifyRecord (if _ then _ else _) h _ = _
  rw [if_neg stays, State.modifyRecord_some (State.record?_putRecord_self ..), State.putRecord_putRecord]

theorem State.voteSample_trips {r : Record} (outside : r.b < r.error.natAbs)
    (trips : (r.voted r.voteDir r.voteWeight).c = (r.voted r.voteDir r.voteWeight).t) (s : State) (h : Fin 32) :
    s.voteSample h r = (s.putRecord h
      (((r.voted r.voteDir r.voteWeight).afterTrip s.berthHold
        (s.stepBlocked (r.voted r.voteDir r.voteWeight).station)).countProving false)).giving
      (r.voted r.voteDir r.voteWeight).station ((r.voted r.voteDir r.voteWeight).tripCommand s.berthHold
        (s.stepBlocked (r.voted r.voteDir r.voteWeight).station)) := by
  obtain ⟨dir, lean⟩ := r.voted_lean r.voteDir r.voteWeight
  rw [State.voteSample, Record.inBand, decide_eq_false (Nat.not_le.mpr outside), if_neg Bool.false_ne_true]
  show State.modifyRecord (if _ then _ else _) h _ = _
  generalize r.voted r.voteDir r.voteWeight = v at trips lean ⊢
  rw [if_pos trips, State.trip_eq (State.record?_putRecord_self s h v) lean, State.putRecord_putRecord,
    State.giving_putRecord, State.modifyRecord_some (State.record?_putRecord_self ..), State.putRecord_putRecord,
    State.giving_putRecord]
  rfl

/-- What the parts of a TENDING sample leave of a record's identity and limits. -/
theorem Record.completeStep_keeps (r : Record) : r.completeStep.station = r.station ∧ r.completeStep.group = r.group := by
  unfold Record.completeStep; split <;> exact ⟨rfl, rfl⟩

theorem Record.completeStep_pay {r : Record} {amount : Nat} (step : r.step = some { dir := .pay, amount := amount }) :
    r.completeStep = { r with step := none, stepsPaid := countStep r.stepsPaid } := by
  unfold Record.completeStep
  split
  · rfl
  · next e => rw [step] at e; cases e
  · next e => rw [step] at e; cases e

theorem Record.completeStep_haul {r : Record} {amount : Nat} (step : r.step = some { dir := .haul, amount := amount }) :
    r.completeStep = { r with step := none, stepsHauled := countStep r.stepsHauled } := by
  unfold Record.completeStep
  split
  · next e => rw [step] at e; cases e
  · rfl
  · next e => rw [step] at e; cases e

theorem Record.noteOverload_keeps (r : Record) : r.noteOverload.station = r.station ∧ r.noteOverload.group = r.group := by
  unfold Record.noteOverload
  split
  · split <;> exact ⟨rfl, rfl⟩
  · split <;> exact ⟨rfl, rfl⟩

theorem Record.movePush_station (r : Record) : r.movePush.station = r.station := by
  unfold Record.movePush
  split
  · split <;> rfl
  · rfl

theorem Record.voted_station (r : Record) (dir : Dir) (w : Nat) : (r.voted dir w).station = r.station := by
  unfold Record.voted
  split
  · rfl
  · split
    · rfl
    · split <;> rfl

end Sys2Proof.Machine

namespace Sys2Proof

open Machine

/-- Settles O22: RETIRE frees STOWED and PREPARED records and skips or refuses the others, and ABANDON frees any. -/
theorem retireAndAbandonFreeSlots : Obligations.RetireAndAbandonFreeSlots := by
  refine ⟨⟨fun s ref r waits named at_ref => ?_, fun s g waits => ?_⟩, ?_⟩
  · have whole : takeRetire 0 ref s = if r.retires then doneCounts (s.freeSlot (Ref.ofByte ref).handle) 1 0
        else refuse s .badState := by
      rw [takeRetire_reference, RecordAction.onTarget_reference, withReference_named named at_ref]
      show (match (if r.retires then none else some Result.badState) with
        | some result => refuse s result
        | none => doneCounts (s.freeSlot (Ref.ofByte ref).handle) 1 0) = _
      cases r.retires <;> rfl
    refine ⟨fun notStowed notPrepared => exec_retire waits ?_, fun retires => ⟨s.freeSlot (Ref.ofByte ref).handle,
      exec_retire waits ?_, rfl, fun h => ⟨s.record?_freeSlot _ h, ?_⟩⟩⟩
    · have stays : ¬ r.retires = true := by simp [Record.retires, notStowed, notPrepared]
      rw [whole, if_neg stays]
      rfl
    · have goes : r.retires = true := by simpa [Record.retires] using retires
      rw [whole, if_pos goes]
      rfl
    · rw [s.generation_freeSlot]
      split
      · next here => rw [here]
      · rfl
  · obtain ⟨t, whole, frame, slots⟩ := retire_members (s := s) (s.handlesWith fun r => r.group = g) (s.handlesWith_nodup _)
      (s.Weighs_there _)
    have value : (byteOf g.val).toNat = g.val := by simp [byteOf]; omega
    have named : memberTest 1 (byteOf g) = some fun r => decide (r.group.val = (byteOf g).toNat) :=
      if_pos (by rw [value]; exact g.isLt)
    have test : (fun r : Record => decide (r.group.val = (byteOf g).toNat)) = fun r => decide (r.group = g) :=
      funext fun r => by rw [value, decide_eq_decide, Fin.ext_iff]
    have target : Target.ofBytes 1 (byteOf g) = .ok (.group g) := by
      show (match finOf 8 (byteOf g).toNat with
        | some g => Except.ok (Target.group g)
        | none => Except.error Result.range) = _
      rw [value, finOf_some g.isLt]
    have taken : takeRetire 1 (byteOf g) s = retireAction.onMembers s (s.handlesWith fun r => r.group = g) := by
      rw [test] at named
      rw [takeRetire, target]
      exact RecordAction.onTarget_members named retireAction s
    refine ⟨t, exec_retire waits ?_, frame, fun h => ?_⟩
    · rw [taken, RecordAction.onMembers, whole, s.countP_handlesWith _ fun _ => Record.retires,
        s.countP_not_handlesWith _ fun _ => Record.retires]
      have skips : (fun r : Record => decide (r.group = g) && !r.retires) =
          fun r => decide (r.group = g) && decide (r.state ≠ .stowed) && decide (r.state ≠ .prepared) := by
        funext r
        rw [Record.retires]
        by_cases stowed : r.state = .stowed <;> by_cases prepared : r.state = .prepared <;> simp [stowed, prepared]
      rw [skips]
      rfl
    · have freed : (h ∈ s.handlesWith (fun r => r.group = g) ∧ s.holds h Record.retires = true) ↔
          (s.holds h fun r => r.group = g && (r.state = .stowed || r.state = .prepared)) = true := by
        rw [show (fun r : Record => decide (r.group = g) && (decide (r.state = .stowed) || decide (r.state = .prepared))) =
          fun r => decide (r.group = g) && r.retires from rfl, ← s.holds_and, Bool.and_eq_true, State.handlesWith,
          List.mem_filter, and_iff_right (List.mem_finRange h)]
      obtain ⟨record, generation⟩ := slots h
      rw [record, generation]
      simp only [freed, and_self]
  · rintro s ref r waits named at_ref _ rfl
    have given (st : Fin 24) (c : Option Command) (h : Fin 32) : (s.giving st c).record? h = s.record? h ∧
        (s.giving st c).generation h = s.generation h := by
      cases c with
      | none => exact ⟨rfl, rfl⟩
      | some c => exact ⟨s.record?_giveCommand st c h, s.generation_giveCommand st c h⟩
    refine ⟨fun h => ⟨?_, ?_⟩, _, State.removeMember_left _ _ _,
      sendRequest_answered waits .abandon [ref] rfl (out := [1, 0]) (result := .done) ?_⟩
    · rw [State.record?_freeSlot, (given _ _ h).1]
    · rw [State.generation_freeSlot, (given _ _ _).2, (given _ _ _).2]
      split
      · next here => rw [here]
      · rfl
    · show takeAbandon ref s = _
      rw [takeAbandon, withReference_named named at_ref, s.refOf_of_names named]
      cases r.state.engaged <;> rfl

/-- Settles O28: CLEAR FAULT by the station's last reply. -/
theorem clearFaultGoesByTheLastReply : Obligations.ClearFaultGoesByTheLastReply := by
  intro s ref r waits named at_ref
  have whole : takeClearFault ref s =
      if r.state ≠ .fault then refuse s .badState
      else if (s.entry r.station).presence ≠ .present then refuse s .badState
      else if (s.entry r.station).lastShows Frame.eyeFast && !(s.entry r.station).lastShows Frame.stationFault then
        doneWith (s.putRecord (Ref.ofByte ref).handle { r with state := .held, faultCause := none, deadline := .absent }) []
      else if (s.entry r.station).lastShows Frame.eyeClear then doneWith (s.enterRewinding (Ref.ofByte ref).handle) []
      else refuse s .badState := by
    rw [takeClearFault, withReference_named named at_ref]
  refine ⟨fun not => exec_clearFault waits ?_, fun faulted present f last => ?_⟩
  · rw [whole]
    rcases not with other | gone | unheard
    · rw [if_pos other]; rfl
    · rw [if_pos gone, ite_self]; rfl
    · have silent (flag : Frame → Bool) : (s.entry r.station).lastShows flag = false := by
        rw [StationEntry.lastShows, unheard]; rfl
      simp only [silent, Bool.false_and, Bool.false_eq_true, if_false, ite_self]
      rfl
  · have shows (flag : Frame → Bool) : (s.entry r.station).lastShows flag = flag f := by
      rw [StationEntry.lastShows, last]; rfl
    simp only [shows] at whole
    rw [if_neg (not_not_intro faulted), if_neg (not_not_intro present)] at whole
    refine ⟨fun fast sound => exec_clearFault waits ?_, fun notHeld => ⟨fun clear => ⟨s.enterRewinding (Ref.ofByte ref).handle, ?_, exec_clearFault waits ?_⟩,
      fun covered => exec_clearFault waits ?_⟩⟩
    · have both : (f.eyeFast && !f.stationFault) = true := by rw [Frame.eyeFast, Frame.stationFault, fast, sound]; rfl
      rw [whole, if_pos both]
      rfl
    · have left := State.enterRewinding_left at_ref
      rwa [s.refOf_of_names named] at left
    · have notBoth : ¬ (f.eyeFast && !f.stationFault) = true := by
        rw [Frame.eyeFast, Frame.stationFault]
        rcases notHeld with e | e <;> rw [e] <;> simp
      rw [whole, if_neg notBoth, if_pos (show f.eyeClear = true from clear)]
      rfl
    · have notBoth : ¬ (f.eyeFast && !f.stationFault) = true := by
        rw [Frame.eyeFast, Frame.stationFault]
        rcases notHeld with e | e <;> rw [e] <;> simp
      have dark : ¬ f.eyeClear = true := by rw [Frame.eyeClear, covered]; exact Bool.false_ne_true
      rw [whole, if_neg notBoth, if_neg dark]
      rfl

/-- Settles O41: the sample of a good reply in each state that waits for a station. -/
theorem freshCompletionMovesTheRecordOn : Obligations.FreshCompletionMovesTheRecordOn := by
  rintro s inTime chars slot f extra h r _ _ good engaged at_h sound rfl rfl
  obtain ⟨on, at_h', taken⟩ := good.sample engaged at_h
  have sound' : f.stationFault = false := sound
  have refs : (s.afterReply slot f extra).refOf h = s.refOf h := rfl
  have config : (s.afterReply slot f extra).config = s.config := rfl
  have hold : (s.afterReply slot f extra).berthHold = s.berthHold := rfl
  rw [taken, ← refs, ← config, ← hold, ← on]
  generalize s.afterReply slot f extra = s' at at_h' ⊢
  have at_r := s'.record?_putRecord_self h (r.sampled f)
  have waits (notTending : r.state ≠ .tending) (notHeld : r.state ≠ .held) := State.sample_waiting at_h' sound' notTending notHeld
  refine ⟨fun rests => ?_, fun fresh => ⟨fun pays runs => ?_, fun fast => ?_, fun hauls runs => ?_, fun releases => ?_,
    fun rewinds runs => ?_⟩⟩
  · have state : r.state ≠ .tending ∧ r.state ≠ .held := by
      rcases rests with e | e | ⟨e | e | e, -⟩ | ⟨e | e | e | e | e, -⟩ <;> rw [e] <;> exact ⟨nofun, nofun⟩
    rw [waits state.1 state.2]
    rcases rests with e | e | ⟨moves, held⟩ | ⟨-, stale⟩
    · have nothing : (s'.putRecord h (r.sampled f)).actOnFlags h (r.sampled f) r.len f = s'.putRecord h (r.sampled f) := by
        rw [State.actOnFlags, show (r.sampled f).state = .armed from e]
      rw [nothing, ite_self]
    · have nothing : (s'.putRecord h (r.sampled f)).actOnFlags h (r.sampled f) r.len f = s'.putRecord h (r.sampled f) := by
        rw [State.actOnFlags, show (r.sampled f).state = .fault from e]
      rw [nothing, ite_self]
    · have paused : s'.heeds r = false := by
        rw [State.heeds, State.paused, held]
        rcases moves with e | e | e <;> rw [e] <;> exact Bool.and_false _
      rw [paused, if_neg Bool.false_ne_true]
    · have unheeded : s'.heeds r = false := by
        rw [State.heeds, Option.isNone_eq_false_iff.mpr (Option.isSome_iff_ne_none.mpr stale), Bool.false_and]
      rw [unheeded, if_neg Bool.false_ne_true]
  · have heeds : s'.heeds r = true := by rw [State.heeds, fresh, State.paused, runs, Bool.and_false]; rfl
    rw [waits (by rw [pays]; nofun) (by rw [pays]; nofun), heeds, if_pos rfl, State.actOnFlags_paying at_r pays,
      State.putRecord_putRecord]
    rfl
  · have heeds : s'.heeds r = true := by rw [State.heeds, fresh, State.paused, fast]; rfl
    rw [waits (by rw [fast]; nofun) (by rw [fast]; nofun), heeds, if_pos rfl, State.actOnFlags_makingFast at_r fast,
      State.afterMove_putRecord]
    rfl
  · have heeds : s'.heeds r = true := by rw [State.heeds, fresh, State.paused, runs, Bool.and_false]; rfl
    have acts : (s'.putRecord h (r.sampled f)).actOnFlags h (r.sampled f) r.len f =
        if (r.sampled f).atTension f then (s'.putRecord h (r.sampled f)).putRecord h (r.sampled f).tensionReached
        else if f.length ≤ r.lMin then (s'.putRecord h (r.sampled f)).enterFault h .haulShort
        else s'.putRecord h (r.sampled f) := by
      rw [State.actOnFlags, show (r.sampled f).state = .hauling from hauls] <;> rfl
    rw [waits (by rw [hauls]; nofun) (by rw [hauls]; nofun), heeds, if_pos rfl, acts, State.putRecord_putRecord]
    refine ⟨fun brake reached => ?_, fun short => ?_⟩
    · have at_tension : (r.sampled f).atTension f = true := Bool.and_eq_true_iff.mpr ⟨brake, decide_eq_true reached⟩
      rw [if_pos at_tension]
      exact ⟨fun pending => by rw [Record.tensionReached_none (r := r.sampled f) pending]; rfl,
        fun part pending => by rw [Record.tensionReached_some (r := r.sampled f) pending]; rfl⟩
    · have notYet : ¬ (r.sampled f).atTension f = true := by
        rw [Record.atTension, Bool.and_eq_true, decide_eq_true_eq]
        rintro ⟨brake, reached⟩
        rcases short with off | less
        · rw [Frame.brakeSet, off] at brake; cases brake
        · exact absurd reached (Nat.not_le.mpr less)
      rw [if_neg notYet]
      refine ⟨fun long => by rw [if_neg (Nat.not_le.mpr long)], fun least => ⟨_, rfl, ?_⟩⟩
      rw [if_pos least]
      have left := State.enterFault_left at_r .haulShort
      rwa [State.afterFault_putRecord, State.refOf_putRecord] at left
  · have heeds : s'.heeds r = true := by rw [State.heeds, fresh, State.paused, releases]; rfl
    have acts : (s'.putRecord h (r.sampled f)).actOnFlags h (r.sampled f) r.len f =
        if f.eyeClear then (s'.putRecord h (r.sampled f)).enterRewinding h else s'.putRecord h (r.sampled f) := by
      rw [State.actOnFlags, show (r.sampled f).state = .releasing from releases]
    rw [waits (by rw [releases]; nofun) (by rw [releases]; nofun), heeds, if_pos rfl, acts]
    refine ⟨fun covered => by rw [Frame.eyeClear, covered, if_neg Bool.false_ne_true], fun clear => ⟨_, rfl, ?_⟩⟩
    rw [if_pos (show f.eyeClear = true from clear)]
    have left := State.enterRewinding_left at_r
    rwa [State.afterMove_putRecord, State.refOf_putRecord] at left
  · have heeds : s'.heeds r = true := by rw [State.heeds, fresh, State.paused, runs, Bool.and_false]; rfl
    rw [waits (by rw [rewinds]; nofun) (by rw [rewinds]; nofun), heeds, if_pos rfl, State.actOnFlags_rewinding at_r rewinds,
      State.putRecord_putRecord]
    rfl

/-- Settles O42: the sequence of a sample given to a HELD record and to a TENDING one. -/
theorem regulatedSamplesTakeTheirSequence : Obligations.RegulatedSamplesTakeTheirSequence := by
  constructor
  · rintro s inTime chars slot f extra h r _ _ good engaged at_h held sound rfl rfl
    obtain ⟨on, at_h', taken⟩ := good.sample engaged at_h
    rw [taken, ← on]
    generalize s.afterReply slot f extra = s' at at_h' ⊢
    have sample := State.sample_held at_h' (f := f) sound held
    have completes {dir : Dir} {amount : Nat} (step : r.step = some { dir := dir, amount := amount })
        (done : f.flags.getLsbD 2 = true) (fresh : (s'.entry r.station).command = none) :
        s'.sample h f = s'.putRecord h (r.sampled f).completeStep := by
      rw [sample, fresh, if_pos]
      exact Bool.and_eq_true_iff.mpr ⟨rfl, done⟩
    refine ⟨fun rests => ?_, fun amount step done fresh => ?_, fun amount step done fresh => ?_⟩
    · rw [sample]
      rcases rests with none' | more | stale
      · have stands : (r.sampled f).completeStep = r.sampled f := by
          unfold Record.completeStep
          split
          · next e => rw [show (r.sampled f).step = none from none'] at e; cases e
          · next e => rw [show (r.sampled f).step = none from none'] at e; cases e
          · rfl
        rw [stands, ite_self]
      · rw [Frame.moveDone, more, Bool.and_false, if_neg Bool.false_ne_true]
      · rw [Option.isNone_eq_false_iff.mpr (Option.isSome_iff_ne_none.mpr stale), Bool.false_and, if_neg Bool.false_ne_true]
    · rw [completes step done fresh, Record.completeStep_pay (r := r.sampled f) step]
      rfl
    · rw [completes step done fresh, Record.completeStep_haul (r := r.sampled f) step]
      rfl
  · rintro s inTime chars slot f extra h r _ r1 r2 good engaged at_h tends sound rfl first second
    obtain ⟨on, at_h', taken⟩ := good.sample engaged at_h
    have refs : (s.afterReply slot f extra).refOf h = s.refOf h := rfl
    have configured : (s.afterReply slot f extra).configured = s.configured := rfl
    have hold : (s.afterReply slot f extra).berthHold = s.berthHold := rfl
    rw [← on] at first
    rw [taken, ← refs, ← configured, ← hold, ← on]
    generalize s.afterReply slot f extra = s' at at_h' first ⊢
    have done : (if (s'.entry r.station).command.isNone && f.moveDone then (r.sampled f).completeStep else r.sampled f) = r1 := by
      rw [first]
      exact if_congr (by rw [Bool.and_eq_true, Option.isNone_iff_eq_none]; exact Iff.rfl) rfl rfl
    have kept : r1.station = r.station ∧ r1.group = r.group := by
      rw [first]
      split
      · exact (r.sampled f).completeStep_keeps
      · exact ⟨rfl, rfl⟩
    obtain ⟨station, group⟩ : r2.station = r.station ∧ r2.group = r.group := by
      rw [second]
      exact ⟨r1.noteOverload_keeps.1.trans kept.1, r1.noteOverload_keeps.2.trans kept.2⟩
    have whole := State.sample_tending at_h' (f := f) sound tends
    rw [State.regulateTending_eq, done, ← second, State.putRecord_putRecord, State.putRecord_putRecord] at whole
    rw [whole, State.putRecord_configured]
    refine ⟨fun busy => ?_, fun free on' => ⟨fun slack => ⟨_, rfl, ?_⟩, fun taut r3 third => ?_⟩⟩
    · have unvoted : (r2.step.isNone && s'.configured) = false := by
        rcases busy with steps | off
        · rw [Option.isNone_eq_false_iff.mpr (Option.isSome_iff_ne_none.mpr steps), Bool.false_and]
        · rw [off, Bool.and_false]
      rw [unvoted, if_neg Bool.false_ne_true]
    · rw [free, on', Option.isNone_none, Bool.and_true, if_pos rfl, if_pos slack]
      have left := State.enterFault_left (s'.record?_putRecord_self h r2.countSlack) .slack
      rw [State.afterFault_putRecord, State.refOf_putRecord] at left
      rwa [← group]
    · have votes : (if (r2.step.isNone && s'.configured) = true then
          if r2.countSlack.slackRun = 5 then (s'.putRecord h r2.countSlack).enterFault h .slack
          else (s'.putRecord h (r.sampled f)).voteSample h r2.countSlack.movePush
          else s'.putRecord h r2) = (s'.putRecord h (r.sampled f)).voteSample h r3 := by
        rw [free, on', Option.isNone_none, Bool.and_true, if_pos rfl, if_neg taut, third]
      rw [votes]
      have at_station : r3.station = r.station := by rw [third, Record.movePush_station]; exact station
      refine ⟨fun inside => ?_, fun outside r4 fourth => ⟨fun stays => ?_, fun trips => ?_⟩⟩
      · rw [State.voteSample_inBand inside, State.putRecord_putRecord]
      · subst fourth
        rw [State.voteSample_votes outside stays, State.putRecord_putRecord]
      · subst fourth
        rw [State.voteSample_trips outside trips, State.putRecord_putRecord, Record.voted_station, at_station]
        rfl

end Sys2Proof
end

section
/-! PROOF. The changes of the berth conditions (R138, R141, R143): which blocks each reaches, and CONFIGURE BERTH, whose changes
find no record at work (R146). -/

namespace Sys2Proof.Machine

variable {s t u : State}

/-! ### Conditions taken one by one -/

/-- The first step of a change of conditions: contact made (R35). -/
def State.takeContact (s : State) (was : Conditions) : State :=
  if !was.contact && s.conditions.contact then s.forRecords State.contactArrives else s

/-- The step after the berth hold: a ramp that has cleared (R104). -/
def State.takeRamp (s : State) (was now : Conditions) : State :=
  if was.ramp && !now.ramp then s.forGroups State.startWaiting else s

/-- The last step: an emergency condition that has become active (R143). -/
def State.takeEmergency (s : State) (was now : Conditions) : State :=
  if !was.emergency && now.emergency then s.setEmergency else s

theorem State.takeConditionChanges_eq (s : State) (was : Conditions) : s.takeConditionChanges was =
    ((((s.takeContact was).takeHoldChange was.berthHold).takeRamp was s.conditions).takeEmergency was s.conditions) := rfl

theorem State.takeContact_same {was : Conditions} (same : s.conditions.contact = was.contact) : s.takeContact was = s := by
  rw [State.takeContact, same]
  cases was.contact <;> rfl

theorem State.takeContact_lost {was : Conditions} (lost : s.conditions.contact = false) : s.takeContact was = s := by
  rw [State.takeContact, lost, Bool.and_false]
  rfl

theorem State.takeHoldChange_of (was : Bool) (same : s.berthHold = was) : s.takeHoldChange was = s := by
  rw [← same]
  exact s.takeHoldChange_same

theorem State.takeRamp_same {was now : Conditions} (same : now.ramp = was.ramp) : s.takeRamp was now = s := by
  rw [State.takeRamp, same]
  cases was.ramp <;> rfl

theorem State.takeRamp_down {was now : Conditions} (down : now.ramp = true) : s.takeRamp was now = s := by
  rw [State.takeRamp, down, Bool.not_true, Bool.and_false]
  rfl

theorem State.takeEmergency_same {was now : Conditions} (same : now.emergency = was.emergency) :
    s.takeEmergency was now = s := by
  rw [State.takeEmergency, same]
  cases was.emergency <;> rfl

theorem State.takeEmergency_over {was now : Conditions} (ended : now.emergency = false) : s.takeEmergency was now = s := by
  rw [State.takeEmergency, ended, Bool.and_false]
  rfl

/-! ### A ramp that clears (R104) -/

/-- The stages that a WAITING group runs through once both interlocks are clear (R104). -/
def State.waitingRuns (s : State) (g : Fin 8) : Option (List Stage) :=
  match s.groupEntry g with
  | .waiting ended => some ended.later
  | _ => none

theorem State.groupEntry_waitsOver (s : State) (g : Fin 8) : s.waitsOver.groupEntry g =
    match s.groupEntry g with
    | .waiting _ => .idle
    | other => other := getElem_mapEntries _ s.groups g

theorem State.forGroups_startWaiting_interlocked (interlocked : s.interlocked = true) :
    s.forGroups State.startWaiting = s := by
  refine State.forGroups_keeps (· = s) _ (fun g u same => ?_) s rfl
  subst same
  rw [State.startWaiting]
  split
  · rw [if_pos interlocked]
  · rfl

theorem State.forGroups_startWaiting_run (clear : s.interlocked = false) :
    s.StagesRun (s.forGroups State.startWaiting) s.waitingRuns := by
  refine State.forGroups_stagesRun fun g u same interlocked => ?_
  rw [State.startWaiting, State.waitingRuns, same, interlocked, clear]
  cases s.groupEntry g <;> rfl

theorem State.waitingStarts_eq (s : State) (g : Fin 8) : s.waitingStarts g = s.starts s.waitingRuns g := by
  rw [State.waitingStarts, State.starts, State.waitingRuns]
  cases s.groupEntry g <;> rfl

theorem State.stagesStarted_waiting (clear : s.interlocked = false) :
    s.waitsOver.StagesStarted (s.forGroups State.startWaiting) s.waitingStarts := by
  refine (State.forGroups_startWaiting_run clear).started ⟨_, rfl⟩ s.waitingStarts_eq fun g _ => ?_
  rw [State.groupEntry_waitsOver, State.waitingRuns]
  cases s.groupEntry g <;> rfl

theorem State.StationsShared.of_same (shared : s.StationsShared) (records : ∀ h, t.record? h = s.record? h) :
    t.StationsShared :=
  shared.of_records (f := fun _ r => r) (fun h => by rw [Option.map_id', records]) fun _ _ _ => ⟨rfl, rfl, id⟩

/-! ### A table with no record at work (R146) -/

/-- No record of the table is engaged: each is PREPARED or STOWED. -/
def State.AllRest (s : State) : Prop := ∀ h r, s.record? h = some r → r.state = .prepared ∨ r.state = .stowed

/-- A pass over records that are all at rest, whose turns do nothing with such a record, changes nothing. -/
theorem State.forRecords_rest (act : Fin 32 → State → State) (still : ∀ h, act h s = s) : s.forRecords act = s :=
  State.forRecords_keeps (· = s) act (fun h u same => by rw [same]; exact still h) s rfl

theorem State.contactArrives_rest (rest : s.AllRest) (h : Fin 32) : State.contactArrives h s = s := by
  cases at_h : s.record? h with
  | none => rw [State.contactArrives, State.holds, at_h]; rfl
  | some r => rw [State.contactArrives, State.holds, at_h]; rcases rest h r at_h with e | e <;> rw [Option.any_some, e] <;> rfl

theorem State.pauseRecord_rest (rest : s.AllRest) (h : Fin 32) : State.pauseRecord h s = s := by
  cases at_h : s.record? h with
  | none => exact State.withRecord_none at_h _
  | some r => rw [State.pauseRecord, State.withRecord_some at_h]; rcases rest h r at_h with e | e <;> rw [e] <;> rfl

theorem State.unpauseRecord_rest (rest : s.AllRest) (h : Fin 32) : State.unpauseRecord h s = s := by
  cases at_h : s.record? h with
  | none => exact State.withRecord_none at_h _
  | some r => rw [State.unpauseRecord, State.withRecord_some at_h]; rcases rest h r at_h with e | e <;> rw [e] <;> rfl

theorem State.takeDeferredTrip_rest (rest : s.AllRest) (h : Fin 32) : State.takeDeferredTrip h s = s := by
  cases at_h : s.record? h with
  | none => rw [State.takeDeferredTrip, State.holds, at_h]; rfl
  | some r => rw [State.takeDeferredTrip, State.holds, at_h]; rcases rest h r at_h with e | e <;> rw [Option.any_some, e] <;> rfl

theorem State.emergencyReleaseRecord_rest (rest : s.AllRest) (h : Fin 32) : State.emergencyReleaseRecord h s = s := by
  cases at_h : s.record? h with
  | none => exact State.withRecord_none at_h _
  | some r =>
    rw [State.emergencyReleaseRecord, State.withRecord_some at_h]; rcases rest h r at_h with e | e <;> rw [e]

/-- An event that rewrites no record and gives no command does nothing. -/
theorem State.Dealt.eq {f : Fin 32 → Record → Record} {g : Fin 24 → Option Command} (dealt : s.Dealt t f g)
    (same : ∀ h r, s.record? h = some r → f h r = r) (nothing : ∀ st, g st = none) : t = s := by
  have still := dealt.congr (f' := fun _ r => r) (g' := fun _ => none) same nothing
  have table : t.table = s.table := by
    refine Vector.ext fun i inside => ?_
    have record : t.table[i].record = s.table[i].record := by
      have := still.records ⟨i, inside⟩
      rwa [Option.map_id'] at this
    have generation : t.table[i].generation = s.table[i].generation := still.generations ⟨i, inside⟩
    cases there : t.table[i]
    cases here : s.table[i]
    rw [there, here] at record generation
    exact congrArg₂ Slot.mk generation record
  have stations : t.stations = s.stations := Vector.ext fun i inside => still.commands.entries ⟨i, inside⟩
  have scan : t.scan = s.scan := still.commands.marked.trans s.scan.marked_false
  rw [still.rest, table, stations, scan]

/-- A group's entry once its wait may be over. -/
def GroupEntry.overIf (clear : Bool) : GroupEntry → GroupEntry
  | .waiting ended => if clear then .idle else .waiting ended
  | e => e

theorem GroupEntry.overIf_false (e : GroupEntry) : e.overIf false = e := by cases e <;> rfl

theorem GroupEntry.overIf_overIf (a b : Bool) (e : GroupEntry) : (e.overIf a).overIf b = e.overIf (a || b) := by
  cases e with
  | waiting ended => cases a <;> cases b <;> rfl
  | idle => rfl
  | running stage members n => rfl

theorem State.firstStage_rest (rest : s.AllRest) (g : Fin 8) (stages : List Stage) : s.firstStage g stages = none := by
  rw [State.firstStage, List.find?_eq_none]
  intro stage _
  have nobody : s.stageMembers g stage = [] := by
    rw [List.eq_nil_iff_forall_not_mem]
    intro h mem
    obtain ⟨r, at_h, joins⟩ := (s.mem_handlesWith _ h).mp mem
    rcases rest h r at_h with e | e <;> simp [e, LineState.releasable] at joins
  simp [nobody]

/-- A run through stages that finds no member sets the groups' stages to NONE and does nothing else. -/
theorem State.StagesRun.rest_eq {runs : Fin 8 → Option (List Stage)} (run : s.StagesRun t runs) (rest : s.AllRest) :
    t = { s with groups := t.groups } ∧ ∀ g, t.groupEntry g = if (runs g).isSome then .idle else s.groupEntry g := by
  have nobody : ∀ g, s.starts runs g = none := fun g => by
    rw [State.starts]
    cases runs g with
    | none => rfl
    | some stages => exact s.firstStage_rest rest g stages
  have still : ∀ r : Record, r.joinsAny (s.starts runs) = false := fun r => Record.joinsAny_none (nobody r.group)
  refine ⟨run.rest.eq (fun h r _ => by rw [still r]; rfl) fun st => ?_, fun g => ?_⟩
  · rw [funext still]
    show (if s.anyOn st (fun _ => false) = true then _ else _) = _
    rw [s.anyOn_false]; rfl
  · rw [run.groups]
    cases runs g with
    | none => rfl
    | some stages =>
      show s.entryFor g stages = _
      unfold State.entryFor
      rw [s.firstStage_rest rest g stages] <;> rfl

theorem State.AllRest.of_groups (rest : s.AllRest) (same : ∀ h, t.record? h = s.record? h) : t.AllRest :=
  fun h r at_h => rest h r (by rw [← same]; exact at_h)

theorem State.forGroups_startWaiting_rest (rest : s.AllRest) :
    s.forGroups State.startWaiting = { s with groups := (s.forGroups State.startWaiting).groups } ∧
      ∀ g, (s.forGroups State.startWaiting).groupEntry g = (s.groupEntry g).overIf !s.interlocked := by
  cases locked : s.interlocked with
  | true =>
    rw [State.forGroups_startWaiting_interlocked locked]
    exact ⟨rfl, fun g => by cases s.groupEntry g <;> rfl⟩
  | false =>
    obtain ⟨whole, groups⟩ := (State.forGroups_startWaiting_run locked).rest_eq rest
    refine ⟨whole, fun g => ?_⟩
    rw [groups, State.waitingRuns]
    cases s.groupEntry g <;> rfl

/-- The stage starts that an end of hold takes before the deferred trips (R112): without an interlock, those of the WAITING
groups whose order says so. -/
def State.firstRuns (s : State) (order : Nat) (g : Fin 8) : Option (List Stage) :=
  if Config.stageStartsFirst order g && !s.interlocked then s.waitingRuns g else none

theorem State.forGroups_startWaitingFirst_run (s : State) (order : Nat) :
    s.StagesRun (s.forGroups (State.startWaitingFirst order)) (s.firstRuns order) := by
  refine State.forGroups_stagesRun fun g u same interlocked => ?_
  rw [State.startWaitingFirst, State.firstRuns, State.waitingRuns, State.startWaiting, same, interlocked]
  cases s.groupEntry g <;> cases Config.stageStartsFirst order g <;> cases s.interlocked <;> rfl

theorem State.forGroups_startWaitingFirst_rest (rest : s.AllRest) (order : Nat) :
    s.forGroups (State.startWaitingFirst order) = { s with groups := (s.forGroups (State.startWaitingFirst order)).groups } ∧
      ∀ g, (s.forGroups (State.startWaitingFirst order)).groupEntry g =
        (s.groupEntry g).overIf (Config.stageStartsFirst order g && !s.interlocked) := by
  obtain ⟨whole, groups⟩ := (s.forGroups_startWaitingFirst_run order).rest_eq rest
  refine ⟨whole, fun g => ?_⟩
  rw [groups, State.firstRuns, State.waitingRuns]
  cases s.groupEntry g <;> cases Config.stageStartsFirst order g <;> cases s.interlocked <;> rfl

/-- An end of berth hold with every record at rest (R104, R141; log 8). -/
theorem State.endHold_rest (rest : s.AllRest) : s.endHold = { s with holdEnds := s.holdEnds + 1, groups := s.endHold.groups } ∧
    ∀ g, s.endHold.groupEntry g = (s.groupEntry g).overIf !s.interlocked := by
  have unpaused : State.forRecords { s with holdEnds := s.holdEnds + 1 } State.unpauseRecord =
      { s with holdEnds := s.holdEnds + 1 } :=
    State.forRecords_rest _ (State.unpauseRecord_rest (s := { s with holdEnds := s.holdEnds + 1 }) rest)
  obtain ⟨first, groups⟩ := State.forGroups_startWaitingFirst_rest (s := { s with holdEnds := s.holdEnds + 1 }) rest s.holdEnds
  have whole : s.endHold = ((State.forGroups { s with holdEnds := s.holdEnds + 1 }
      (State.startWaitingFirst s.holdEnds)).forRecords State.takeDeferredTrip).forGroups State.startWaiting := by
    simp only [State.endHold, unpaused]
  generalize State.forGroups { s with holdEnds := s.holdEnds + 1 } (State.startWaitingFirst s.holdEnds) = u at first groups whole
  have rest' : u.AllRest := by rw [first]; exact rest
  have interlocked : u.interlocked = s.interlocked := by rw [first]; rfl
  rw [State.forRecords_rest _ (State.takeDeferredTrip_rest rest')] at whole
  obtain ⟨last, groups'⟩ := State.forGroups_startWaiting_rest rest'
  rw [← whole] at last groups'
  refine ⟨last.trans (by rw [first]), fun g => ?_⟩
  rw [groups', groups, GroupEntry.overIf_overIf, interlocked]
  refine congrArg (fun clear => GroupEntry.overIf clear (s.groupEntry g)) ?_
  show (_ && !s.interlocked || !s.interlocked) = !s.interlocked
  cases s.interlocked <;> simp

/-- An emergency release with every record at rest (R110, R143). -/
theorem State.setEmergency_rest (rest : s.AllRest) :
    s.setEmergency = { s with emergencyLatch := true, groups := Vector.replicate 8 .idle } := by
  rw [State.setEmergency, State.emergencyRelease, State.forGroups_idle]
  exact State.forRecords_rest _ (State.emergencyReleaseRecord_rest
    (s := { s with emergencyLatch := true, groups := Vector.replicate 8 .idle }) rest)

theorem State.takeHoldChange_rest (rest : s.AllRest) (was : Bool) :
    s.takeHoldChange was = { s with
      holdEnds := s.holdEnds + (if was && !s.berthHold then 1 else 0), groups := (s.takeHoldChange was).groups } ∧
    ∀ g, (s.takeHoldChange was).groupEntry g = (s.groupEntry g).overIf (was && !s.interlocked) := by
  cases before : was with
  | false =>
    have same : s.takeHoldChange false = s := by
      cases now : s.berthHold with
      | false => exact State.takeHoldChange_of _ now
      | true =>
        rw [State.takeHoldChange_begins _ rfl now]
        exact State.forRecords_rest _ (State.pauseRecord_rest rest)
    rw [same]
    exact ⟨rfl, fun g => (GroupEntry.overIf_false _).symm⟩
  | true =>
    cases now : s.berthHold with
    | true =>
      have locked : s.interlocked = true := by rw [State.interlocked, now, Bool.or_true]
      rw [State.takeHoldChange_of _ now, locked]
      exact ⟨rfl, fun g => (GroupEntry.overIf_false _).symm⟩
    | false =>
      rw [State.takeHoldChange_ends _ rfl now]
      exact State.endHold_rest rest

theorem State.takeRamp_rest (rest : s.AllRest) (was now : Conditions) :
    s.takeRamp was now = { s with groups := (s.takeRamp was now).groups } ∧
    ∀ g, (s.takeRamp was now).groupEntry g = (s.groupEntry g).overIf (was.ramp && !now.ramp && !s.interlocked) := by
  rw [State.takeRamp]
  cases was.ramp && !now.ramp with
  | false => exact ⟨rfl, fun g => ((s.groupEntry g).overIf_false).symm⟩
  | true => exact State.forGroups_startWaiting_rest rest

/-- The taking of a change of conditions with every record at rest. -/
theorem State.takeConditionChanges_rest (rest : s.AllRest) (was : Conditions) :
    s.takeConditionChanges was = { s with
      groups := (s.takeConditionChanges was).groups
      emergencyLatch := s.emergencyLatch || !was.emergency && s.condition .emergency
      holdEnds := s.holdEnds + (if was.berthHold && !s.berthHold then 1 else 0) } ∧
    ∀ g, (s.takeConditionChanges was).groupEntry g = if !was.emergency && s.condition .emergency then .idle
      else (s.groupEntry g).overIf ((was.ramp || was.berthHold) && !s.interlocked) := by
  have contact : s.takeContact was = s := by
    rw [State.takeContact, State.forRecords_rest _ (State.contactArrives_rest rest), ite_self]
  rw [State.takeConditionChanges_eq, contact]
  obtain ⟨hold, holdGroups⟩ := State.takeHoldChange_rest rest was.berthHold
  generalize s.takeHoldChange was.berthHold = a at hold holdGroups ⊢
  have restA : a.AllRest := by rw [hold]; exact rest
  have lockedA : a.interlocked = s.interlocked := by rw [hold]; rfl
  obtain ⟨ramp, rampGroups⟩ := State.takeRamp_rest restA was s.conditions
  generalize a.takeRamp was s.conditions = b at ramp rampGroups ⊢
  have restB : b.AllRest := by rw [ramp]; exact restA
  have groups : ∀ g, b.groupEntry g = (s.groupEntry g).overIf ((was.ramp || was.berthHold) && !s.interlocked) := by
    intro g
    rw [rampGroups, holdGroups, GroupEntry.overIf_overIf, lockedA]
    refine congrArg (fun clear => GroupEntry.overIf clear (s.groupEntry g)) ?_
    have up : s.interlocked = false → s.conditions.ramp = false := fun clear => (Bool.or_eq_false_iff.mp clear).1
    cases locked : s.interlocked with
    | true => simp
    | false =>
      rw [up locked]
      cases was.berthHold <;> cases was.ramp <;> rfl
  have whole : b = { s with
      groups := b.groups, holdEnds := s.holdEnds + (if was.berthHold && !s.berthHold then 1 else 0) } := by
    have later : b = { a with groups := b.groups } := ramp
    rw [hold] at later
    exact later
  have alarm : s.conditions.emergency = s.condition .emergency := rfl
  rw [State.takeEmergency, alarm]
  cases rings : !was.emergency && s.condition .emergency with
  | false =>
    rw [if_neg Bool.false_ne_true, Bool.or_false]
    exact ⟨whole, fun g => by rw [if_neg Bool.false_ne_true]; exact groups g⟩
  | true =>
    rw [if_pos rfl, Bool.or_true, State.setEmergency_rest restB]
    refine ⟨?_, fun g => ?_⟩
    · rw [whole]
    · rw [if_pos rfl]
      show (Vector.replicate 8 GroupEntry.idle)[g] = _
      simp

/-! ### CONFIGURE BERTH (R146) -/

/-- The state in which the configuration has been written, before the conditions are recomputed (R117, R137, R146). -/
def State.configuredBy (s : State) (body : BerthBody) : State :=
  let written := (State.removeStations { s with config := body.config, configured := true } s.config.map).reconfigureLines
    s.config.lines
  if s.configured then written else { written with scan := { station := 0, slot := none } }

theorem configureEffect_eq (body : BerthBody) (s : State) :
    configureEffect body s = (s.configuredBy body).takeConditionChanges s.conditions := rfl

theorem State.entry_removeStations (s : State) (old : BitVec 24) (st : Fin 24) : (s.removeStations old).entry st =
    if old.getLsbD st && !s.mapped st then (s.entry st).removed else s.entry st := by
  have turn := foldl_pointwise (fun (s : State) st => (s.mapped st, s.entry st))
    (fun s (st : Fin 24) => if old.getLsbD st && !s.mapped st then s.putEntry st (s.entry st).removed else s)
    (fun st view => (view.1, if old.getLsbD st && !view.1 then view.2.removed else view.2)) (fun s st st' => by
      cases goes : old.getLsbD st && !s.mapped st with
      | true =>
        rw [if_pos rfl]
        by_cases here : st' = st
        · subst here; rw [if_pos rfl, State.entry_putEntry_self]; rfl
        · rw [if_neg here, State.entry_putEntry, if_neg here]; rfl
      | false =>
        rw [if_neg Bool.false_ne_true]
        by_cases here : st' = st
        · subst here; rw [if_pos rfl, if_neg Bool.false_ne_true]
        · rw [if_neg here]) (List.finRange 24) (List.nodup_finRange 24) s st
  rw [if_pos (List.mem_finRange st)] at turn
  exact congrArg Prod.snd turn

theorem State.removeStations_frame (s : State) (old : BitVec 24) :
    s.removeStations old = { s with stations := (s.removeStations old).stations } := by
  refine foldl_keeps (fun t => t = { s with stations := t.stations }) _ (fun t st kept => ?_) (List.finRange 24) s rfl
  show (if _ then _ else _ : State) = _
  split
  · rw [kept]; rfl
  · exact kept

theorem State.line_reconfigureLines (s : State) (old : Vector LineConfig 8) (l : Fin 8) :
    (s.reconfigureLines old).line l = (s.line l).reconfigured (old[l].function ≠ .generalOut) (s.isInput l) := by
  have turn := foldl_pointwise (fun (s : State) l => (s.isInput l, s.line l))
    (fun s (l : Fin 8) => s.putLine l ((s.line l).reconfigured (old[l].function ≠ .generalOut) (s.isInput l)))
    (fun l view => (view.1, view.2.reconfigured (old[l].function ≠ .generalOut) view.1)) (fun s l l' => by
      by_cases here : l' = l
      · subst here; rw [if_pos rfl, State.line_putLine_self]; rfl
      · rw [if_neg here, State.line_putLine, if_neg here]; rfl) (List.finRange 8) (List.nodup_finRange 8) s l
  rw [if_pos (List.mem_finRange l)] at turn
  exact congrArg Prod.snd turn

theorem State.reconfigureLines_frame (s : State) (old : Vector LineConfig 8) :
    s.reconfigureLines old = { s with lines := (s.reconfigureLines old).lines } := by
  refine foldl_keeps (fun t => t = { s with lines := t.lines }) _ (fun t l kept => ?_) (List.finRange 8) s rfl
  show (t.putLine l _ : State) = _
  rw [kept]
  rfl

/-- What CONFIGURE BERTH has written, part by part. -/
theorem State.configuredBy_frame (s : State) (body : BerthBody) : s.configuredBy body = { s with
    config := body.config, configured := true
    stations := (s.configuredBy body).stations, lines := (s.configuredBy body).lines
    scan := if s.configured then s.scan else { station := 0, slot := none } } := by
  have lines := (State.removeStations { s with config := body.config, configured := true } s.config.map).reconfigureLines_frame
    s.config.lines
  have stations := State.removeStations_frame { s with config := body.config, configured := true } s.config.map
  rw [State.configuredBy]
  cases s.configured with
  | true =>
    rw [if_pos rfl]
    generalize (State.removeStations { s with config := body.config, configured := true }
      s.config.map).reconfigureLines s.config.lines = t at lines ⊢
    rw [lines, stations]
    rfl
  | false =>
    rw [if_neg Bool.false_ne_true]
    generalize (State.removeStations { s with config := body.config, configured := true }
      s.config.map).reconfigureLines s.config.lines = t at lines ⊢
    rw [lines, stations]
    rfl

theorem State.configuredBy_tables (s : State) (body : BerthBody) :
    (∀ st, (s.configuredBy body).entry st = ((State.removeStations { s with config := body.config, configured := true }
      s.config.map).reconfigureLines s.config.lines).entry st) ∧
    ∀ l, (s.configuredBy body).line l = ((State.removeStations { s with config := body.config, configured := true }
      s.config.map).reconfigureLines s.config.lines).line l := by
  rw [State.configuredBy]
  generalize (State.removeStations { s with config := body.config, configured := true }
    s.config.map).reconfigureLines s.config.lines = t
  cases s.configured <;> exact ⟨fun _ => rfl, fun _ => rfl⟩

theorem State.entry_configuredBy (s : State) (body : BerthBody) (st : Fin 24) : (s.configuredBy body).entry st =
    if s.mapped st && !body.map.getLsbD st then (s.entry st).removed else s.entry st := by
  have removed : (State.removeStations { s with config := body.config, configured := true } s.config.map).entry st =
      if s.mapped st && !body.map.getLsbD st then (s.entry st).removed else s.entry st :=
    State.entry_removeStations { s with config := body.config, configured := true } s.config.map st
  rw [(s.configuredBy_tables body).1, ← removed]
  generalize State.removeStations { s with config := body.config, configured := true } s.config.map = u
  have stations : (u.reconfigureLines s.config.lines).stations = u.stations := by rw [u.reconfigureLines_frame]
  rw [State.entry, State.entry, stations]

theorem State.line_configuredBy (s : State) (body : BerthBody) (l : Fin 8) : (s.configuredBy body).line l =
    (s.line l).reconfigured ((s.lineConfig l).function ≠ .generalOut) (body.config.lines[l].function ≠ .generalOut) := by
  have stations := State.removeStations_frame { s with config := body.config, configured := true } s.config.map
  rw [(s.configuredBy_tables body).2, State.line_reconfigureLines, stations]
  rfl

theorem BerthBody.config_line (body : BerthBody) (l : Fin 8) : body.config.lines[l] = body.lineConfig l := by
  fin_cases l <;> rfl

/-- The function whose code a byte's low three bits carry. -/
theorem LineFunction.ofCode_some {code : Nat} (named : code ≤ 5) :
    ∃ f, LineFunction.ofCode code = some f ∧ f.code = code := by
  have codes : code = 0 ∨ code = 1 ∨ code = 2 ∨ code = 3 ∨ code = 4 ∨ code = 5 := by omega
  rcases codes with rfl | rfl | rfl | rfl | rfl | rfl <;> exact ⟨_, rfl, rfl⟩

theorem LineFunction.ofCode_none {code : Nat} (above : 5 < code) : LineFunction.ofCode code = none := by
  unfold LineFunction.ofCode
  split
  case h_7 => rfl
  all_goals omega

theorem LineConfig.ofByte_isSome (b : Byte) : (LineConfig.ofByte b).isSome = decide ((b.extractLsb' 0 3).toNat ≤ 5) := by
  rw [LineConfig.ofByte, Option.isSome_map]
  by_cases named : (b.extractLsb' 0 3).toNat ≤ 5
  · obtain ⟨f, found, -⟩ := LineFunction.ofCode_some named
    rw [found, decide_eq_true named]; rfl
  · rw [LineFunction.ofCode_none (Nat.not_le.mp named), decide_eq_false named]; rfl

/-- Function and polarity of a line as the body's byte carries them (R146). -/
theorem BerthBody.lineConfig_code (body : BerthBody) {l : Fin 8} (named : ((body.lines[l]).extractLsb' 0 3).toNat ≤ 5) :
    (body.lineConfig l).function.code = ((body.lines[l]).extractLsb' 0 3).toNat ∧
      (body.lineConfig l).activeLow = (body.lines[l]).getLsbD 7 := by
  obtain ⟨f, found, code⟩ := LineFunction.ofCode_some named
  rw [BerthBody.lineConfig, LineConfig.ofByte, found]
  exact ⟨code, rfl⟩

theorem Vector.toList_all {α : Type} {n : Nat} (v : Vector α n) (test : α → Bool) :
    v.toList.all test = true ↔ ∀ i : Fin n, test v[i] = true := by
  rw [List.all_eq_true]
  constructor
  · exact fun all i => all _ (by simp)
  · intro all a mem
    obtain ⟨i, inside, rfl⟩ := List.getElem_of_mem mem
    have := all ⟨i, by simpa using inside⟩
    simpa using this

theorem lineByteFormed_iff (b : Byte) : lineByteFormed b = true ↔ b.extractLsb' 3 4 = 0 := by
  rw [lineByteFormed, decide_eq_true_eq]

theorem timeoutInRange_iff (v : Half) : timeoutInRange v = true ↔ 1 ≤ v.toNat ∧ v.toNat ≤ 6000 := by
  simp [timeoutInRange]

theorem BerthBody.timeoutsInRange_iff (body : BerthBody) : body.timeoutsInRange = true ↔
    ∀ time ∈ [body.pay, body.fast, body.haul, body.clear, body.stall, body.stage], 1 ≤ time.toNat ∧ time.toNat ≤ 6000 := by
  simp only [BerthBody.timeoutsInRange, Bool.and_eq_true, timeoutInRange_iff, List.forall_mem_cons, List.not_mem_nil,
    false_imp_iff, implies_true, and_true, and_assoc]

/-- The records at work, in the words of R146. -/
theorem State.anyEngaged_iff (s : State) : ((List.finRange 32).any fun h => s.holds h fun r => r.state.engaged) = true ↔
    ∃ h r, s.record? h = some r ∧ r.state ≠ .prepared ∧ r.state ≠ .stowed := by
  simp only [List.any_eq_true, List.mem_finRange, true_and, s.holds_iff]
  refine exists_congr fun h => exists_congr fun r => and_congr_right fun _ => ?_
  cases r.state <;> simp [LineState.engaged]

theorem exec_configureBerth {body : BerthBody} (waits : s.port.Awaits) {t : State} {result : Result} {out : List Byte}
    (taken : takeConfigureBerth body s = (t, { result := result, body := out })) :
    exec (.configureBerth body) s = .next (t.answering s .configureBerth result out) :=
  sendRequest_answered waits .configureBerth body.bytes body.bytes_length (by
    rw [runRequest, BerthBody.ofBytes_bytes, taken])

theorem takeConfigureBerth_refused {body : BerthBody} {result : Result} (refusal : configureRefusal body s = some result) :
    takeConfigureBerth body s = refuse s result := by
  rw [takeConfigureBerth, refusal]

end Sys2Proof.Machine

namespace Sys2Proof

open Machine

/-- Settles O13: each change of one condition alone, by the step of the taking of conditions that answers to it. -/
theorem conditionChangesReachTheirBlocks : Obligations.ConditionChangesReachTheirBlocks := by
  rintro s l input counted s' same'
  have taken : exec (.lineQualified l) s = .next (s'.takeConditionChanges s.conditions) := by
    rw [exec_lineQualified, State.qualify_input input counted, same']
    rfl
  have records : ∀ h, s'.record? h = s.record? h := fun h => by rw [same']; rfl
  have groups : ∀ g, s'.groupEntry g = s.groupEntry g := fun g => by rw [same']; rfl
  refine ⟨_, taken, fun now was shared => ?_, fun now => ?_, fun now was => ?_, fun now was shared none' => ?_,
    fun now was => ?_, fun now => ?_, fun now => ?_, fun now was => ⟨fun held => ?_, fun free => ?_⟩⟩
  all_goals
    rw [State.takeConditionChanges_eq]
    have contact := congrArg Conditions.contact now
    have ramp := congrArg Conditions.ramp now
    have emergency := congrArg Conditions.emergency now
    have hold : s'.berthHold = _ := congrArg Conditions.berthHold now
    dsimp only at contact ramp emergency hold
  · have made := State.contactMade_forRecords (shared.of_same records)
    have pass : s'.takeContact s.conditions = s'.forRecords State.contactArrives := by
      rw [State.takeContact, was, contact]
      rfl
    rw [pass, State.takeHoldChange_of _ (made.berthHold.trans hold), State.takeRamp_same ramp,
      State.takeEmergency_same emergency]
    exact made
  · rw [State.takeContact_lost contact, State.takeHoldChange_of _ hold, State.takeRamp_same ramp,
      State.takeEmergency_same emergency]
  · rw [State.takeContact_same contact, State.takeHoldChange_begins _ was hold, State.takeRamp_same ramp,
      State.takeEmergency_same emergency]
    exact s'.holdBegun_startHold
  · have waits : s'.NoneWaits := fun g ended => by rw [groups]; exact none' g ended
    rw [State.takeContact_same contact, State.takeHoldChange_ends _ was hold, State.takeRamp_same ramp,
      State.takeEmergency_same emergency]
    exact State.holdEnded_endHold (shared.of_same records) waits
  · rw [State.takeContact_same contact, State.takeHoldChange_of _ hold, State.takeRamp_same ramp, State.takeEmergency, was,
      emergency]
    exact s'.emergencyReleased_setEmergency
  · rw [State.takeContact_same contact, State.takeHoldChange_of _ hold, State.takeRamp_same ramp,
      State.takeEmergency_over emergency]
  · rw [State.takeContact_same contact, State.takeHoldChange_of _ hold, State.takeRamp_down ramp,
      State.takeEmergency_same emergency]
  · have interlocked : s'.interlocked = true := by rw [State.interlocked, held, Bool.or_true]
    rw [State.takeContact_same contact, State.takeHoldChange_of _ hold, State.takeEmergency_same emergency, State.takeRamp,
      State.forGroups_startWaiting_interlocked interlocked, ite_self]
  · have clear : s'.interlocked = false := by
      have up : s'.condition .ramp = false := ramp
      rw [State.interlocked, up, free]
      rfl
    rw [State.takeContact_same contact, State.takeHoldChange_of _ hold, State.takeEmergency_same emergency, State.takeRamp,
      was, ramp]
    exact State.stagesStarted_waiting clear

/-- Settles O17: the checks of CONFIGURE BERTH in order, and its whole effect, which finds every record at rest. -/
theorem configureBerthChecksAndWrites : Obligations.ConfigureBerthChecksAndWrites := by
  constructor
  · intro s body waits
    have refused {result : Result} (refusal : configureRefusal body s = some result) :
        exec (.configureBerth body) s = .next (s.answering s .configureBerth result []) :=
      exec_configureBerth waits (takeConfigureBerth_refused refusal)
    have formed : body.lines.toList.all lineByteFormed = true ↔ ∀ l : Fin 8, (body.lines[l]).extractLsb' 3 4 = 0 := by
      simp only [Vector.toList_all, lineByteFormed_iff]
    refine ⟨fun ⟨l, bad⟩ => refused ?_, fun good => ⟨fun busy => refused ?_, fun rest =>
      ⟨fun ⟨time, mem, outside⟩ => refused ?_, fun ⟨l, unnamed⟩ => refused ?_⟩⟩⟩
    · have ill : body.lines.toList.all lineByteFormed = false := by
        rw [Bool.eq_false_iff, Ne, formed]; exact fun all => bad (all l)
      rw [configureRefusal, ill]; rfl
    all_goals rw [configureRefusal, formed.mpr good, Bool.not_true, if_neg Bool.false_ne_true]
    · rw [if_pos (s.anyEngaged_iff.mpr busy)]
    all_goals
      rw [if_neg (by
        rw [s.anyEngaged_iff]
        rintro ⟨h, r, at_h, notPrepared, notStowed⟩
        rcases rest h r at_h with e | e
        · exact notPrepared e
        · exact notStowed e)]
    · have late : body.timeoutsInRange = false := by
        rw [Bool.eq_false_iff, Ne, (BerthBody.timeoutsInRange_iff body)]
        intro all
        have := all time mem
        omega
      rw [late]; rfl
    · have nameless : (body.lines.toList.all fun b => (LineConfig.ofByte b).isSome) = false := by
        rw [Bool.eq_false_iff, Ne, Vector.toList_all]
        intro all
        have := all l
        rw [LineConfig.ofByte_isSome, decide_eq_true_eq] at this
        omega
      rw [nameless]
      cases body.timeoutsInRange <;> rfl
  · intro s body waits lines rest times
    have passes : configureRefusal body s = none := by
      have formed : body.lines.toList.all lineByteFormed = true := by
        simp only [Vector.toList_all, lineByteFormed_iff]; exact fun l => (lines l).1
      have named : (body.lines.toList.all fun b => (LineConfig.ofByte b).isSome) = true := by
        simp only [Vector.toList_all, LineConfig.ofByte_isSome, decide_eq_true_eq]; exact fun l => (lines l).2
      have still : ((List.finRange 32).any fun h => s.holds h fun r => r.state.engaged) = false := by
        rw [Bool.eq_false_iff, Ne, s.anyEngaged_iff]
        rintro ⟨h, r, at_h, notPrepared, notStowed⟩
        rcases rest h r at_h with e | e
        · exact notPrepared e
        · exact notStowed e
      rw [configureRefusal, formed, still, (BerthBody.timeoutsInRange_iff body).mpr times, named]
      rfl
    have frame := s.configuredBy_frame body
    have entries := s.entry_configuredBy body
    have levels := s.line_configuredBy body
    have restC : (s.configuredBy body).AllRest := by rw [frame]; exact rest
    obtain ⟨whole, groups⟩ := State.takeConditionChanges_rest restC s.conditions
    have taken : takeConfigureBerth body s = doneWith ((s.configuredBy body).takeConditionChanges s.conditions) [] := by
      rw [takeConfigureBerth, passes, configureEffect_eq]
    generalize s.configuredBy body = c at frame entries levels restC whole groups taken
    generalize c.takeConditionChanges s.conditions = t at whole groups taken
    have condition : ∀ kind, t.condition kind = c.condition kind := fun kind => by rw [whole]; rfl
    have hold : t.berthHold = c.berthHold := by rw [whole]; rfl
    have interlocked : t.interlocked = c.interlocked := by rw [whole]; rfl
    have config : t.config = body.config := by rw [whole, frame]
    have lineConfig : ∀ l, t.lineConfig l = body.lineConfig l := fun l => by
      rw [State.lineConfig, config, BerthBody.config_line]
    refine ⟨t, exec_configureBerth waits taken, ?_, by rw [config]; rfl, by rw [config]; rfl, fun l => ?_, fun st => ?_,
      fun l => ?_, ?_, ?_, fun g => ?_⟩
    · have later := whole
      rw [frame] at later
      rw [later]
    · rw [lineConfig]
      exact BerthBody.lineConfig_code body (lines l).2
    · have same : t.entry st = c.entry st := by rw [whole]; rfl
      rw [same, entries]
      refine if_congr ?_ rfl rfl
      rw [Bool.and_eq_true, Bool.not_eq_true']
    · have same : t.line l = c.line l := by rw [whole]; rfl
      rw [same, levels, BerthLine.reconfigured, lineConfig, BerthBody.config_line]
      by_cases out : (s.lineConfig l).function = .generalOut <;>
        by_cases out' : (body.lineConfig l).function = .generalOut <;> simp [out, out']
    · have latch : t.emergencyLatch = (c.emergencyLatch || !s.conditions.emergency && c.condition .emergency) := by rw [whole]
      have kept : c.emergencyLatch = s.emergencyLatch := by rw [frame]
      rw [latch, kept, condition]
      rfl
    · have ends : t.holdEnds = c.holdEnds + (if s.conditions.berthHold && !c.berthHold then 1 else 0) := by rw [whole]
      have kept : c.holdEnds = s.holdEnds := by rw [frame]
      rw [ends, kept, hold]
      rfl
    · have kept : c.groupEntry g = s.groupEntry g := by rw [frame]; rfl
      rw [groups, kept, condition, interlocked]
      cases s.groupEntry g <;> rfl

end Sys2Proof
end

section
/-! PROOF. The elementary acts of which every command is made: each says what it writes and what it knows of the state
before it, so that an invariant is proved act by act and never command by command. The acts of one command come in phases:
the inputs, the blocks' own work, the taking of a change of berth hold, what an end of hold leaves to do, and last an
emergency release. -/

namespace Sys2Proof.Machine

variable {s t u : State} {h : Fin 32} {r r' : Record}

/-! ### What a rewriting keeps -/

/-- What no command changes of a record: its place, group and role, its length limits, its own limits and its regulation
settings (R2 to R4). -/
def Record.identity (r : Record) :
    (Fin 24 × Byte × Fin 8 × Role) × (Nat × Nat × Nat) × (Nat × Nat) × Nat × Nat × Nat :=
  ((r.station, r.callTag, r.group, r.role), (r.lRun, r.lMin, r.lMax), (r.q, r.k), r.t, r.r, r.stepSize)

theorem Record.place_of_identity (same : r'.identity = r.identity) :
    r'.station = r.station ∧ r'.callTag = r.callTag ∧ r'.group = r.group ∧ r'.role = r.role := by
  simp only [Record.identity, Prod.mk.injEq] at same
  exact same.1

/-- A time is one of the timeouts of records (R22). -/
def Timeouts.Has (t : Timeouts) (n : Nat) : Prop := n = t.pay ∨ n = t.fast ∨ n = t.haul ∨ n = t.clear ∨ n = t.stall

/-- What a rewriting does to the deadline: it is kept with the state, taken from a record that does not move, or set to a
timeout, frozen under berth hold (R27, R47). -/
def State.Sets (s : State) (r r' : Record) : Prop :=
  r'.deadline = r.deadline ∧ r'.state = r.state ∨ r'.deadline = .absent ∧ r'.state.moving = false ∨
    ∃ n, s.config.timeouts.Has n ∧
      (r'.deadline = .running n ∧ (r'.state.moving = true → s.berthHold = false) ∨
        r'.deadline = .frozen n ∧ s.berthHold = true)

/-- A rewriting of a record that engages none, lets none leave RELEASING and issues no step. -/
structure State.Rewrites (s : State) (r r' : Record) : Prop where
  line : r'.identity = r.identity
  engaged : r'.state.engaged = true → r.state.engaged = true
  releasing : r.state = .releasing → r'.state = .releasing
  step : r'.step = none ∨ r'.step = r.step
  times : s.Sets r r'

/-- A rewriting that keeps state and deadline too, as the regulator's are. -/
structure Record.Calm (r r' : Record) : Prop where
  line : r'.identity = r.identity
  state : r'.state = r.state
  deadline : r'.deadline = r.deadline
  step : r'.step = none ∨ r'.step = r.step

/-- What a rewriting of a station's entry keeps of its presence, its waiting command and its zeroing (R121, R133). -/
structure StationEntry.Turns (e e' : StationEntry) : Prop where
  presence : e.PresenceOk → e'.PresenceOk
  command : e'.command = e.command ∨ e'.command = none
  zeroing : e'.zeroing = true → e.zeroing = true
  zeroWaits : e'.command = some .zero → e'.zeroing = e.zeroing

/-! ### The acts -/

/-- The phases of a command. -/
inductive Phase where
  | input | early | hold | late | emergency
deriving DecidableEq

/-- What CONFIGURE BERTH leaves, on a berth with no engaged record (R117, R146). -/
structure State.Reconfigured (s t : State) : Prop where
  rest : s.AllRest
  table : t.table = s.table
  timeouts : t.config.timeouts.Ok
  configured : t.configured = true
  entry : ∀ st, t.entry st = if s.mapped st && !t.mapped st then (s.entry st).removed else s.entry st
  groupEntry : ∀ g stage members n, t.groupEntry g = .running stage members n → s.groupEntry g = .running stage members n

/-- One act of a command, in its phase. -/
inductive State.Act : Phase → State → State → Prop
  /-- Outside the tables. -/
  | aside {ph : Phase} {s t : State} (table : t.table = s.table) (stations : t.stations = s.stations)
      (groups : t.groups = s.groups) (config : t.config = s.config) (configured : t.configured = s.configured)
      (inputs : ph = .input ∨ t.lines = s.lines ∧ t.softwareHold = s.softwareHold) : Act ph s t
  | configured {s t : State} (new : s.Reconfigured t) : Act .input s t
  | warmReset (s : State) : Act .input s s.warmReset
  | pass (s : State) (n : Nat) : Act .early s (s.passTime n)
  | rewrite {s : State} {h : Fin 32} {r r' : Record} (at_h : s.record? h = some r) (does : s.Rewrites r r') :
      Act .early s (s.putRecord h r')
  | gives {s : State} {h : Fin 32} {r r' : Record} {c : Command} (at_h : s.record? h = some r) (does : s.Rewrites r r')
      (engaged : r'.state.engaged = true) (other : c ≠ .zero ∧ c ≠ .free) :
      Act .early s ((s.putRecord h r').giveCommand r.station c)
  /-- The parts of a record that a trip, a proving phase or a report writes. -/
  | quiet {ph : Phase} {s : State} {h : Fin 32} {r : Record} (at_h : s.record? h = some r) (deferred pay haul : Bool)
      (part : Option ProvingPart) (n : NoticeSet) : Act ph s (s.putRecord h { r with
        tripDeferred := deferred, payLimit := pay, haulLimit := haul, proving := part, notices := n })
  | arms {s : State} {h : Fin 32} {r : Record} (at_h : s.record? h = some r) (prepared : r.state = .prepared)
      (configured : s.configured = true) (present : (s.entry r.station).presence = .present)
      (alone : s.engagedOn r.station = none) (idle : (s.entry r.station).zeroing = false) :
      Act .early s (s.putRecord h { r with state := .armed, deadline := .absent })
  | frees {s : State} {h : Fin 32} {r : Record} (at_h : s.record? h = some r)
      (idle : r.state = .stowed ∨ r.state = .prepared) : Act .early s (s.freeSlot h)
  | abandons {s : State} {h : Fin 32} {r : Record} (at_h : s.record? h = some r) : Act .early s
      (((if r.state.engaged then s.giveCommand r.station .stopBrake else s).freeSlot h).removeMember r.group (s.refOf h))
  | faults {s : State} {h : Fin 32} {r : Record} (at_h : s.record? h = some r) (engaged : r.state.engaged = true)
      (cause : FaultCause) : Act .early s (s.enterFault h cause)
  | rewinds {s : State} {h : Fin 32} {r : Record} (at_h : s.record? h = some r)
      (from' : r.state = .releasing ∨ r.state = .fault) : Act .early s (s.enterRewinding h)
  | entry {s : State} {st : Fin 24} {e : StationEntry} (works : s.mapped st = true ∨ e = s.entry st)
      (turns : (s.entry st).Turns e) : Act .early s (s.putEntry st e)
  | zero {s : State} {st : Fin 24} (present : (s.entry st).presence = .present) (alone : s.engagedOn st = none) :
      Act .early s ((s.putEntry st { s.entry st with zeroing := true }).giveCommand st .zero)
  /-- A paused record's part in a change of berth hold. -/
  | holds {s : State} {h : Fin 32} {r : Record} {d : Deadline} {c : Command} (at_h : s.record? h = some r)
      (moving : r.state.moving = true) (time : d = r.deadline.freeze ∨ d = r.deadline.thaw)
      (other : c ≠ .zero ∧ c ≠ .free) :
      Act .hold s ((s.putRecord h { r with deadline := d }).giveCommand r.station c)
  | issues {s : State} {h : Fin 32} {r : Record} {dir : Dir} (at_h : s.record? h = some r) (tending : r.state = .tending)
      (amount : r.stepAmount dir ≠ 0) (off : s.berthHold = false) (open' : s.stepBlocked r.station = false) :
      Act .late s ((s.putRecord h (r.issueStep dir (r.stepAmount dir))).giveCommand r.station
        (stepCommand dir (r.stepAmount dir)))
  | group {ph : Phase} {s : State} {g : Fin 8} {e : GroupEntry} (stopped : e = .idle ∨ ∃ ended, e = .waiting ended) :
      Act ph s (s.putGroup g e)
  | starts {ph : Phase} {s : State} {g : Fin 8} {stages : List Stage} (clear : s.interlocked = false)
      (after : ph ≠ .input) : Act ph s (State.startStage g stages s)
  | releases {ph : Phase} {s : State} {h : Fin 32} {r : Record} (at_h : s.record? h = some r)
      (engaged : r.state.engaged = true) (clear : ph = .emergency ∨ s.interlocked = false)
      (after : ph ≠ .input) : Act ph s (s.enterReleasing h)
  | disarms {s : State} {h : Fin 32} {r : Record} (at_h : s.record? h = some r) (armed : r.state = .armed) :
      Act .emergency s (s.putRecord h { r with state := .prepared, deadline := .absent })

/-- Acts of one phase, one after another. -/
abbrev State.Acts (ph : Phase) : State → State → Prop := Relation.ReflTransGen (State.Act ph)

/-- The taking of what berth hold has become since it was `was`: a pass over the moving records, or nothing. -/
inductive State.HoldTaken (was : Bool) (s : State) : State → Prop
  | same (now : s.berthHold = was) : HoldTaken was s s
  | begins (before : was = false) (now : s.berthHold = true) : HoldTaken was s s.startHold
  | ends (before : was = true) (now : s.berthHold = false) :
      HoldTaken was s (State.forRecords { s with holdEnds := s.holdEnds + 1 } State.unpauseRecord)
  | still (none' : ∀ h r, s.record? h = some r → r.state.moving = false) : HoldTaken was s s

/-- The commands that can bring about an emergency release (R109, R143). -/
def Rings (c : Instr) (s : State) : Prop :=
  c = .releaseAll ∨ c = .urgentCodeInvalid 3 ∨ c = .requestEnd ∧ s.port.posted = some .releaseAll ∨
    ∃ l, c = .lineQualified l

/-- A command made of its acts in their phases. -/
def State.Ran (c : Instr) (s t : State) : Prop :=
  ∃ s0 s1 s2 s3, State.Acts .input s s0 ∧ State.Acts .early s0 s1 ∧ s1.HoldTaken s.berthHold s2 ∧
    State.Acts .late s2 s3 ∧ (t = s3 ∨ t = s3.setEmergency ∧ Rings c s)

/-- A PREPARED record that ASSIGN has placed in a FREE slot, under the station rule (R9, R11). -/
def State.Assigned (s t : State) : Prop :=
  ∃ (a : AssignBody) (place : AssignPlace) (h : Fin 32), s.record? h = none ∧
    s.stationTaken place.station a.callTag = false ∧ t = s.putRecord h (a.newRecord place)

/-! ### Rewritings -/

theorem Record.Calm.refl (r : Record) : r.Calm r := ⟨rfl, rfl, rfl, .inr rfl⟩

theorem Record.Calm.trans {r'' : Record} (first : r.Calm r') (second : r'.Calm r'') : r.Calm r'' where
  line := second.line.trans first.line
  state := second.state.trans first.state
  deadline := second.deadline.trans first.deadline
  step := second.step.elim .inl fun same => first.step.imp same.trans same.trans

theorem Record.Calm.rewrites (calm : r.Calm r') (s : State) : s.Rewrites r r' where
  line := calm.line
  engaged := fun engaged => calm.state ▸ engaged
  releasing := fun releasing => calm.state.trans releasing
  step := calm.step
  times := .inl ⟨calm.deadline, calm.state⟩

theorem Record.calm_completeStep (r : Record) : r.Calm r.completeStep := by
  unfold Record.completeStep
  split
  · exact ⟨rfl, rfl, rfl, .inl rfl⟩
  · exact ⟨rfl, rfl, rfl, .inl rfl⟩
  · exact .refl r

theorem Record.calm_noteOverload (r : Record) : r.Calm r.noteOverload := by
  unfold Record.noteOverload
  repeat' split
  all_goals exact ⟨rfl, rfl, rfl, .inr rfl⟩

theorem Record.calm_countSlack (r : Record) : r.Calm r.countSlack := ⟨rfl, rfl, rfl, .inr rfl⟩

theorem Record.calm_movePush (r : Record) : r.Calm r.movePush := by
  unfold Record.movePush
  repeat' split
  all_goals exact ⟨rfl, rfl, rfl, .inr rfl⟩

theorem Record.calm_voted (r : Record) (dir : Dir) (w : Nat) : r.Calm (r.voted dir w) := by
  unfold Record.voted
  repeat' split
  all_goals exact ⟨rfl, rfl, rfl, .inr rfl⟩

/-- A count in a proving phase writes the proving part and the notices. -/
theorem Record.countProving_eq (r : Record) (inBand : Bool) :
    ∃ part n, r.countProving inBand = { r with proving := part, notices := n } := by
  unfold Record.countProving
  repeat' split
  all_goals exact ⟨_, _, rfl⟩

theorem Record.calm_countProving (r : Record) (inBand : Bool) : r.Calm (r.countProving inBand) := by
  obtain ⟨part, n, same⟩ := r.countProving_eq inBand
  rw [same]
  exact ⟨rfl, rfl, rfl, .inr rfl⟩

/-- A trip at a limit writes the limit episodes and the notices. -/
theorem Record.atLimit_eq (r : Record) (dir : Dir) :
    ∃ pay haul n, r.atLimit dir = { r with payLimit := pay, haulLimit := haul, notices := n } := by
  cases dir with
  | pay =>
    by_cases on : r.payLimit = true
    · exact ⟨r.payLimit, r.haulLimit, r.notices, if_pos on⟩
    · exact ⟨true, r.haulLimit, _, if_neg on⟩
  | haul =>
    by_cases on : r.haulLimit = true
    · exact ⟨r.payLimit, r.haulLimit, r.notices, if_pos on⟩
    · exact ⟨r.payLimit, true, _, if_neg on⟩

/-! ### What no act after the inputs changes -/

/-- Everything the conditions and berth hold are computed from, with the rest of the configuration. -/
def State.berth (s : State) : BerthConfig × Bool × Vector BerthLine 8 × Bool :=
  (s.config, s.configured, s.lines, s.softwareHold)

theorem State.condition_of_berth (same : t.berth = s.berth) (f : LineFunction) : t.condition f = s.condition f := by
  simp only [State.berth, Prod.mk.injEq] at same
  obtain ⟨config, -, lines, -⟩ := same
  have lineConfig : ∀ l, t.lineConfig l = s.lineConfig l := fun l => by rw [State.lineConfig, config]; rfl
  have active : t.lineActive = s.lineActive := funext fun l => by
    simp only [State.lineActive, State.line, lines, lineConfig]
  have linesOf : t.linesOf f = s.linesOf f := by simp only [State.linesOf, lineConfig]
  rw [State.condition, State.condition, linesOf, active]

theorem State.berthHold_of_berth (same : t.berth = s.berth) : t.berthHold = s.berthHold := by
  have hold : t.softwareHold = s.softwareHold := congrArg (fun b => b.2.2.2) same
  rw [State.berthHold, State.berthHold, State.condition_of_berth same, hold]

theorem State.interlocked_of_berth (same : t.berth = s.berth) : t.interlocked = s.interlocked := by
  rw [State.interlocked, State.interlocked, State.condition_of_berth same, State.berthHold_of_berth same]

@[simp] theorem State.berth_giveCommand (s : State) (st : Fin 24) (c : Command) : (s.giveCommand st c).berth = s.berth := by
  obtain ⟨_, _, same, _⟩ := s.giveCommand_cases st c
  rw [same]
  rfl

@[simp] theorem State.berth_putRecord (s : State) (h : Fin 32) (r : Record) : (s.putRecord h r).berth = s.berth := rfl

@[simp] theorem State.berth_putGroup (s : State) (g : Fin 8) (e : GroupEntry) : (s.putGroup g e).berth = s.berth := rfl

@[simp] theorem State.berth_enterReleasing (s : State) (h : Fin 32) : (s.enterReleasing h).berth = s.berth := by
  rw [State.enterReleasing, State.withRecord]
  split
  · rw [State.berth_giveCommand, State.berth_putRecord]
  · rfl

/-! ### What the Release Sequencer does, as single entries and releases -/

/-- A group entry whose stage time, if it has one, is the stage timeout or the time the group's stage had. -/
def State.Follows (s : State) (g : Fin 8) (e : GroupEntry) : Prop :=
  ∀ stage members n, e = .running stage members n →
    n = s.config.timeouts.stage ∨ ∃ stage' members', s.groupEntry g = .running stage' members' n

/-- A property that the writing of a group's entry and the release of an engaged record keep. -/
structure State.Steady (I : State → Prop) : Prop where
  group : ∀ s g e, I s → s.Follows g e → I (s.putGroup g e)
  release : ∀ s h r, I s → s.record? h = some r → r.state.engaged = true → s.interlocked = false → I (s.enterReleasing h)

/-- The record in a slot, if there is one, is engaged. -/
def State.EngagedAt (s : State) (h : Fin 32) : Prop := ∃ r, s.record? h = some r ∧ r.state.engaged = true

theorem State.EngagedAt.enterReleasing (engaged : s.EngagedAt h) (h' : Fin 32) : (s.enterReleasing h').EngagedAt h := by
  obtain ⟨r, at_h, is⟩ := engaged
  rw [State.enterReleasing, State.withRecord]
  split
  · next r' at_h' =>
    simp only [State.EngagedAt, State.record?_giveCommand, State.record?_putRecord]
    by_cases here : h = h'
    · exact ⟨_, if_pos here, rfl⟩
    · exact ⟨r, (if_neg here).trans at_h, is⟩
  · exact ⟨r, at_h, is⟩

theorem LineState.engaged_of_releasable {state : LineState} (may : state.releasable = true) : state.engaged = true := by
  cases state <;> first | rfl | cases may

theorem State.engagedAt_of_member {g : Fin 8} {stage : Stage} (member : h ∈ s.stageMembers g stage) : s.EngagedAt h := by
  obtain ⟨r, at_h, is⟩ := (s.mem_handlesWith _ h).mp member
  simp only [Bool.and_eq_true] at is
  exact ⟨r, at_h, LineState.engaged_of_releasable is.2⟩

variable {I : State → Prop}

theorem State.Steady.releases (steady : State.Steady I) (members : List (Fin 32)) (good : I s)
    (engaged : ∀ h ∈ members, s.EngagedAt h) (clear : s.interlocked = false) :
    I (members.foldl State.enterReleasing s) := by
  induction members generalizing s with
  | nil => exact good
  | cons h rest ih =>
    obtain ⟨r, at_h, is⟩ := engaged h (List.mem_cons_self ..)
    exact ih (steady.release s h r good at_h is clear)
      (fun h' member => (engaged h' (List.mem_cons_of_mem _ member)).enterReleasing h)
      ((State.interlocked_of_berth (s.berth_enterReleasing h)).trans clear)

theorem State.follows_idle (s : State) (g : Fin 8) : s.Follows g .idle := fun _ _ _ same => by cases same

theorem State.follows_waiting (s : State) (g : Fin 8) (ended : Stage) : s.Follows g (.waiting ended) :=
  fun _ _ _ same => by cases same

theorem State.Steady.startStage (steady : State.Steady I) (g : Fin 8) (stages : List Stage) (good : I s)
    (clear : s.interlocked = false) : I (State.startStage g stages s) := by
  induction stages with
  | nil => exact steady.group s g .idle good (s.follows_idle g)
  | cons stage rest ih =>
    unfold State.startStage
    split
    · exact ih
    · refine steady.releases _ (steady.group s g _ good fun _ _ _ same => ?_) (fun h member => ?_) clear
      · cases same; exact .inl rfl
      · exact State.engagedAt_of_member (s := s) (g := g) (stage := stage) member

theorem State.Steady.stageEnded (steady : State.Steady I) (g : Fin 8) (ended : Stage) (good : I s) :
    I (s.stageEnded g ended) := by
  unfold State.stageEnded
  split
  · exact steady.group s g _ good (s.follows_waiting g ended)
  · next goes =>
    cases ended with
    | spring => exact steady.group s g .idle good (s.follows_idle g)
    | breast => exact steady.startStage g _ good (by simpa using goes)
    | ends => exact steady.startStage g _ good (by simpa using goes)

theorem State.Steady.removeMember (steady : State.Steady I) (g : Fin 8) (ref : Ref) (good : I s) :
    I (s.removeMember g ref) := by
  unfold State.removeMember
  split
  · next running =>
    split
    · split
      · exact steady.stageEnded g _ good
      · exact steady.group s g _ good fun _ _ _ same => by cases same; exact .inr ⟨_, _, running⟩
    · exact good
  · exact good

theorem State.steady_berth (s : State) : State.Steady fun u => u.berth = s.berth where
  group _ _ _ same _ := same
  release u h _ same _ _ _ := (u.berth_enterReleasing h).trans same

/-- Every act but an input leaves the configuration, the lines and the software hold as they are. -/
theorem State.Act.berth {ph : Phase} (act : State.Act ph s t) (after : ph ≠ .input) : t.berth = s.berth := by
  cases act with
  | aside table stations groups config configured inputs =>
    obtain ⟨lines, hold⟩ := inputs.resolve_left after
    simp only [State.berth, config, configured, lines, hold]
  | configured => exact absurd rfl after
  | warmReset => exact absurd rfl after
  | pass n => simp only [State.berth, State.passTime_config, State.passTime_configured, State.passTime_lines,
    State.passTime_softwareHold]
  | rewrite | quiet | arms | frees | entry | group | disarms => rfl
  | gives | zero | holds | issues => rw [State.berth_giveCommand]; rfl
  | releases => exact s.berth_enterReleasing _
  | starts clear => exact s.steady_berth.startStage _ _ rfl clear
  | abandons at_h =>
    refine s.steady_berth.removeMember _ _ ?_
    split
    · exact s.berth_giveCommand _ _
    · rfl
  | faults at_h engaged cause =>
    rw [State.enterFault, State.withRecord_some at_h]
    exact s.steady_berth.removeMember _ _ (State.berth_giveCommand ..)
  | rewinds at_h from' =>
    rw [State.enterRewinding, State.withRecord_some at_h, State.enterMoving]
    refine s.steady_berth.removeMember _ _ ?_
    split <;> exact State.berth_giveCommand ..

theorem State.Acts.berth {ph : Phase} (acts : State.Acts ph s t) (after : ph ≠ .input) : t.berth = s.berth := by
  induction acts with
  | refl => rfl
  | tail _ act ih => exact (act.berth after).trans ih

end Sys2Proof.Machine
end

section
/-! PROOF. Every command is made of acts: each operation of the model taken apart once, from the Release Sequencer up to
`exec`. -/

namespace Sys2Proof.Machine

variable {s t u : State} {h : Fin 32} {r r' : Record} {ph : Phase}

/-- Blocks' own work, and after it what may issue a step. -/
def State.Works (s t : State) : Prop := ∃ u, State.Acts .early s u ∧ State.Acts .late u t

theorem State.Works.of_early (acts : State.Acts .early s t) : s.Works t := ⟨t, acts, .refl⟩

theorem State.Works.after (acts : State.Acts .early s u) (works : u.Works t) : s.Works t := by
  obtain ⟨v, early, late⟩ := works
  exact ⟨v, acts.trans early, late⟩

/-- Only port and queue differ (R168 to R176). -/
theorem State.Acts.over (p : Port) (q : List Instr) : State.Acts ph s (s.over p q) :=
  .single (.aside rfl rfl rfl rfl rfl (.inr ⟨rfl, rfl⟩))

/-- Turns that leave berth hold as it is, one after another. -/
theorem State.Acts.foldl {α : Type} {f : State → α → State} (after : ph ≠ .input) (l : List α)
    (one : ∀ u a, u.berth = s.berth → State.Acts ph u (f u a)) : State.Acts ph s (l.foldl f s) := by
  have all : ∀ (l : List α) (u : State), u.berth = s.berth → State.Acts ph u (l.foldl f u) := by
    intro l
    induction l with
    | nil => exact fun _ _ => .refl
    | cons a l ih =>
      intro u same
      have first := one u a same
      exact first.trans (ih _ ((first.berth after).trans same))
  exact all l s rfl

theorem State.Acts.forRecords {f : Fin 32 → State → State} (after : ph ≠ .input)
    (one : ∀ u h, u.berth = s.berth → State.Acts ph u (f h u)) : State.Acts ph s (s.forRecords f) :=
  State.Acts.foldl after (List.finRange 32) one

theorem State.Acts.forGroups {f : Fin 8 → State → State} (after : ph ≠ .input)
    (one : ∀ u g, u.berth = s.berth → State.Acts ph u (f g u)) : State.Acts ph s (s.forGroups f) :=
  State.Acts.foldl after (List.finRange 8) one

theorem State.Acts.quiet (at_h : s.record? h = some r) (deferred pay haul : Bool) (part : Option ProvingPart)
    (n : NoticeSet) : State.Acts ph s (s.putRecord h { r with
      tripDeferred := deferred, payLimit := pay, haulLimit := haul, proving := part, notices := n }) :=
  .single (.quiet at_h deferred pay haul part n)

theorem State.Acts.rewrite (at_h : s.record? h = some r) (does : s.Rewrites r r') :
    State.Acts .early s (s.putRecord h r') := .single (.rewrite at_h does)

theorem State.Acts.calm (at_h : s.record? h = some r) (calm : r.Calm r') : State.Acts .early s (s.putRecord h r') :=
  State.Acts.rewrite at_h (calm.rewrites s)

/-- A kind is raised on a record. -/
theorem State.Acts.raise (at_h : s.record? h = some r) (kind : Notice) : State.Acts ph s (s.putRecord h (r.raise kind)) :=
  State.Acts.quiet at_h r.tripDeferred r.payLimit r.haulLimit r.proving (r.notices.raise kind)

/-! ### The Release Sequencer -/

theorem State.startWaiting_acts (after : ph ≠ .input) (s : State) (g : Fin 8) : State.Acts ph s (State.startWaiting g s) := by
  unfold State.startWaiting
  split
  · split
    · exact .refl
    · next clear => exact .single (.starts (by simpa using clear) after)
  · exact .refl

theorem State.stageEnded_acts (after : ph ≠ .input) (s : State) (g : Fin 8) (ended : Stage) : State.Acts ph s (s.stageEnded g ended) := by
  unfold State.stageEnded
  split
  · exact .single (.group (.inr ⟨ended, rfl⟩))
  · next goes =>
    cases ended with
    | spring => exact .single (.group (.inl rfl))
    | breast => exact .single (.starts (by simpa using goes) after)
    | ends => exact .single (.starts (by simpa using goes) after)

theorem State.expireStage_acts (s : State) (g : Fin 8) (n : Nat) : State.Acts .early s (s.expireStage g n) := by
  have passes : State.Acts .early s (s.passTime n) := .single (.pass s n)
  unfold State.expireStage
  split
  · split
    · exact passes.trans (State.stageEnded_acts (by decide) _ _ _)
    · exact passes
  · exact passes
  · exact passes

theorem State.emergencyReleaseRecord_acts (s : State) (h : Fin 32) :
    State.Acts .emergency s (State.emergencyReleaseRecord h s) := by
  unfold State.emergencyReleaseRecord State.withRecord
  split
  · next r at_h =>
    have release : r.state.engaged = true →
        State.Acts .emergency s ((s.enterReleasing h).modifyRecord h (·.raise .emergencyReleased)) := by
      intro is
      have first : State.Acts .emergency s (s.enterReleasing h) := .single (.releases at_h is (.inl rfl) (by decide))
      obtain ⟨r', at_h', -⟩ := State.EngagedAt.enterReleasing ⟨r, at_h, is⟩ h
      rw [State.modifyRecord_some at_h']
      exact first.trans (State.Acts.raise at_h' _)
    dsimp only
    cases state : r.state
    case armed =>
      have first : State.Acts .emergency s (s.putRecord h { r with state := .prepared, deadline := .absent }) :=
        .single (.disarms at_h state)
      have second := State.Acts.raise (ph := .emergency) (s.record?_putRecord_self h
        { r with state := .prepared, deadline := .absent }) .emergencyReleased
      rw [State.putRecord_putRecord] at second
      exact first.trans second
    case prepared | releasing | rewinding | stowed => exact .refl
    all_goals exact release (by rw [state]; rfl)
  · exact .refl

theorem State.setEmergency_acts (s : State) : State.Acts .emergency s s.setEmergency := by
  have latch : State.Acts .emergency s { s with emergencyLatch := true } :=
    .single (.aside rfl rfl rfl rfl rfl (.inr ⟨rfl, rfl⟩))
  rw [State.setEmergency, State.emergencyRelease]
  generalize { s with emergencyLatch := true } = u at latch ⊢
  have idle : State.Acts .emergency u (u.forGroups fun g s => s.putGroup g .idle) :=
    State.Acts.forGroups (by decide) fun v g _ => .single (.group (.inl rfl))
  exact (latch.trans idle).trans (State.Acts.forRecords (by decide) fun v h _ => v.emergencyReleaseRecord_acts h)

/-! ### The Line State Unit -/

/-- A rewriting that brings a record to a state without a deadline. -/
theorem State.Rewrites.stops (line : r'.identity = r.identity) (absent : r'.deadline = .absent)
    (still : r'.state.moving = false) (engaged : r'.state.engaged = true → r.state.engaged = true)
    (from' : r.state ≠ .releasing) (step : r'.step = none ∨ r'.step = r.step) : s.Rewrites r r' :=
  ⟨line, engaged, fun is => absurd is from', step, .inr (.inl ⟨absent, still⟩)⟩

theorem State.failRecord_acts (h : Fin 32) (cause : FaultCause) : State.Acts .early s (s.failRecord h cause) := by
  unfold State.failRecord State.withRecord
  split
  · next r at_h =>
    dsimp only
    cases state : r.state
    case armed =>
      exact State.Acts.rewrite at_h (.stops rfl rfl rfl (fun is => by cases is) (by rw [state]; decide) (.inr rfl))
    case fault | prepared | stowed => exact .refl
    all_goals exact .single (.faults at_h (by rw [state]; rfl) cause)
  · exact .refl

theorem State.expireDeadline_acts (s : State) (h : Fin 32) (n : Nat) :
    State.Acts .early s (s.expireDeadline h n) := by
  have passes : State.Acts .early s (s.passTime n) := .single (.pass s n)
  unfold State.expireDeadline
  split
  · next cause runs =>
    obtain ⟨r, at_h, out⟩ := Option.bind_eq_some_iff.mp runs
    have at_h' : (s.passTime n).record? h = some (r.pass n) := by rw [State.record?_passTime, at_h]; rfl
    refine passes.tail (.faults at_h' ?_ cause)
    show r.state.engaged = true
    unfold Record.runsOut at out
    split at out
    · split at out
      · cases state : r.state <;> rw [state] at out <;> first | rfl | cases out
      · cases out
    · cases out
    · cases out
  · exact passes

theorem State.enterMoving_acts (at_h : s.record? h = some r) (line : r'.identity = r.identity)
    (step : r'.step = none ∨ r'.step = r.step) (engaged : r.state.engaged = true) (moving : r'.state.moving = true)
    (from' : r.state ≠ .releasing) {time : Nat} (timed : s.config.timeouts.Has time) :
    State.Acts .early s (s.enterMoving h r' time) := by
  have station : r'.station = r.station := (Record.place_of_identity line).1
  have is : r'.state.engaged = true := LineState.engaged_of_moving moving
  have other : r'.moveCommand ≠ .zero ∧ r'.moveCommand ≠ .free := by
    unfold Record.moveCommand
    split <;> exact ⟨nofun, nofun⟩
  have gives : ∀ (d : Deadline) (c : Command), s.Sets r { r' with deadline := d } → c ≠ .zero ∧ c ≠ .free →
      State.Acts .early s ((s.putRecord h { r' with deadline := d }).giveCommand r'.station c) := by
    intro d c times other
    have act := State.Act.gives (r' := { r' with deadline := d }) at_h
      ⟨line, fun _ => engaged, fun is => absurd is from', step, times⟩ is other
    rw [← station] at act
    exact .single act
  rw [State.enterMoving]
  cases hold : s.berthHold with
  | true =>
    rw [if_pos rfl]
    exact gives _ _ (.inr (.inr ⟨time, timed, .inr ⟨rfl, hold⟩⟩)) ⟨nofun, nofun⟩
  | false =>
    rw [if_neg Bool.false_ne_true]
    exact gives _ _ (.inr (.inr ⟨time, timed, .inl ⟨rfl, fun _ => hold⟩⟩)) other

theorem State.enterPaying_acts (at_h : s.record? h = some r) (armed : r.state = .armed) :
    State.Acts .early s (s.enterPaying h) := by
  rw [State.enterPaying, State.withRecord_some at_h]
  exact State.enterMoving_acts (r' := { r with state := .paying }) at_h rfl (.inr rfl) (by rw [armed]; rfl) rfl
    (by rw [armed]; decide) (.inl rfl)

theorem State.contactArrives_acts (s : State) (h : Fin 32) : State.Acts .early s (State.contactArrives h s) := by
  unfold State.contactArrives
  split
  · next holds =>
    obtain ⟨r, at_h, armed⟩ := (State.holds_iff ..).mp holds
    exact State.enterPaying_acts at_h (by simpa using armed)
  · exact .refl

theorem Record.tensionReached_identity (r : Record) : r.tensionReached.identity = r.identity ∧
    r.tensionReached.step = r.step := by
  unfold Record.tensionReached
  split <;> exact ⟨rfl, rfl⟩

theorem State.actOnFlags_acts (at_h : s.record? h = some r) (fresh : s.paused r = false) (before : Nat) (f : Frame) :
    State.Acts .early s (s.actOnFlags h r before f) := by
  unfold State.actOnFlags
  cases state : r.state
  case paying =>
    dsimp only
    split
    · rw [State.enterMakingFast, State.modifyRecord_some at_h]
      exact State.Acts.rewrite at_h ⟨rfl, fun _ => (by rw [state]; rfl), fun is => (by rw [state] at is; cases is), .inr rfl,
        .inr (.inr ⟨_, .inr (.inl rfl), .inl ⟨rfl, nofun⟩⟩)⟩
    · exact .refl
  case makingFast =>
    dsimp only
    split
    · rw [State.enterHauling, State.withRecord_some at_h]
      exact State.enterMoving_acts (r' := { r with state := .hauling }) at_h rfl (.inr rfl) (by rw [state]; rfl) rfl
        (by rw [state]; decide) (.inr (.inr (.inl rfl)))
    · exact .refl
  case hauling =>
    dsimp only
    split
    · obtain ⟨line, step⟩ := r.tensionReached_identity
      exact State.Acts.rewrite at_h (.stops line rfl rfl (fun _ => by rw [state]; rfl) (by rw [state]; decide) (.inr step))
    · split
      · exact .single (.faults at_h (by rw [state]; rfl) _)
      · exact .refl
  case releasing =>
    dsimp only
    split
    · exact .single (.rewinds at_h (.inl state))
    · exact .refl
  case rewinding =>
    dsimp only
    split
    · exact State.Acts.rewrite at_h (.stops rfl rfl rfl (fun _ => by rw [state]; rfl) (by rw [state]; decide) (.inr rfl))
    · split
      · refine State.Acts.rewrite at_h ⟨rfl, fun _ => (by rw [state]; rfl), fun is => (by rw [state] at is; cases is), .inr rfl,
          .inr (.inr ⟨_, .inr (.inr (.inr (.inr rfl))), .inl ⟨rfl, fun _ => ?_⟩⟩)⟩
        have pausedNot := fresh
        rw [State.paused, state] at pausedNot
        exact (Bool.true_and _).symm.trans pausedNot
      · exact .refl
  all_goals exact .refl

/-! ### The Tension Regulator -/

theorem State.takeTrip_acts (at_h : s.record? h = some r) (tending : r.state = .tending) (off : s.berthHold = false) :
    State.Acts .late s (s.takeTrip h) := by
  rw [State.takeTrip, State.withRecord_some at_h]
  split
  · exact .refl
  · next dir _ =>
    split
    · obtain ⟨pay, haul, n, same⟩ := r.atLimit_eq dir
      rw [same]
      exact State.Acts.quiet at_h _ _ _ _ _
    · next amount =>
      split
      · exact State.Acts.quiet at_h _ _ _ _ _
      · next open' => exact .single (.issues at_h tending amount off (by simpa using open'))

theorem State.trip_acts (at_h : s.record? h = some r) (tending : r.state = .tending) : State.Acts .late s (s.trip h) := by
  unfold State.trip
  split
  · rw [State.modifyRecord_some at_h]
    exact State.Acts.quiet at_h _ _ _ _ _
  · next off => exact State.takeTrip_acts at_h tending (by simpa using off)

theorem State.takeDeferredTrip_acts (s : State) (h : Fin 32) (off : s.berthHold = false) :
    State.Acts .late s (State.takeDeferredTrip h s) := by
  unfold State.takeDeferredTrip
  split
  · next holds =>
    obtain ⟨r, at_h, is⟩ := (State.holds_iff ..).mp holds
    simp only [Bool.and_eq_true, decide_eq_true_eq] at is
    rw [State.modifyRecord_some at_h]
    have taken : State.Acts .late s (s.putRecord h { r with tripDeferred := false }) := State.Acts.quiet at_h _ _ _ _ _
    exact taken.trans (State.takeTrip_acts (State.record?_putRecord_self ..) is.1.1.1 off)
  · exact .refl

/-- A count in a proving phase, after whatever the trip did. -/
theorem State.countProving_acts (s : State) (h : Fin 32) (inBand : Bool) :
    State.Acts .late s (s.modifyRecord h (·.countProving inBand)) := by
  rw [State.modifyRecord, State.withRecord]
  split
  · next r at_h =>
    obtain ⟨part, n, same⟩ := r.countProving_eq inBand
    rw [same]
    exact State.Acts.quiet at_h _ _ _ _ _
  · exact .refl

theorem State.voteSample_works (at_h : s.record? h = some r) (calm : r.Calm r') (tending : r.state = .tending) :
    s.Works (s.voteSample h r') := by
  unfold State.voteSample
  split
  · exact .of_early (State.Acts.calm at_h (calm.trans (r'.calm_countProving true)))
  · have voted := calm.trans (r'.calm_voted r'.voteDir r'.voteWeight)
    refine ⟨_, State.Acts.calm at_h voted, ?_⟩
    dsimp only
    split
    · exact (State.trip_acts (State.record?_putRecord_self ..) (voted.state.trans tending)).trans
        (State.countProving_acts ..)
    · exact State.countProving_acts ..

theorem State.regulateTending_works (at_h : s.record? h = some r) (tending : r.state = .tending) (done : Bool) :
    s.Works (s.regulateTending h r done) := by
  have one : r.Calm (if done then r.completeStep else r) := by
    split
    · exact r.calm_completeStep
    · exact .refl r
  unfold State.regulateTending
  generalize (if done then r.completeStep else r) = r1 at one ⊢
  have two := one.trans r1.calm_noteOverload
  have three := two.trans r1.noteOverload.calm_countSlack
  dsimp only
  split
  · split
    · refine .of_early ((State.Acts.calm at_h three).tail (.faults (State.record?_putRecord_self ..) ?_ _))
      rw [three.state, tending]
      rfl
    · exact State.voteSample_works at_h (three.trans (Record.calm_movePush _)) tending
  · exact .of_early (State.Acts.calm at_h two)

/-! ### The Station Link Controller -/

theorem State.sample_works (s : State) (h : Fin 32) (f : Frame) : s.Works (s.sample h f) := by
  unfold State.sample State.withRecord
  split
  · next old at_old =>
    have measured : State.Acts .early s (s.putRecord h { old with m := f.tension, len := f.length }) :=
      State.Acts.calm at_old ⟨rfl, rfl, rfl, .inr rfl⟩
    have at_h := s.record?_putRecord_self h { old with m := f.tension, len := f.length }
    refine .after measured ?_
    dsimp only
    split
    · exact .of_early (State.failRecord_acts h _)
    · split
      · next tending => exact State.regulateTending_works at_h tending _
      · refine .of_early (State.Acts.calm at_h ?_)
        split
        · exact Record.calm_completeStep _
        · exact .refl _
      · split
        · next fresh =>
          simp only [Bool.and_eq_true, Bool.not_eq_true'] at fresh
          exact .of_early (State.actOnFlags_acts at_h fresh.2 _ f)
        · exact .of_early .refl
  · exact .of_early .refl

end Sys2Proof.Machine
end

section
/-! PROOF. Every command is made of acts: the slots of the station link, the changes of the berth conditions, the requests,
the port, and `exec` itself. -/

namespace Sys2Proof.Machine

variable {s t u : State} {h : Fin 32} {r r' : Record} {ph : Phase} {e e' e'' : StationEntry}

/-! ### The station table (R121 to R133) -/

theorem StationEntry.Turns.refl (e : StationEntry) : e.Turns e := ⟨id, .inl rfl, id, fun _ => rfl⟩

theorem StationEntry.Turns.trans (first : e.Turns e') (second : e'.Turns e'') : e.Turns e'' where
  presence := fun ok => second.presence (first.presence ok)
  command := second.command.elim (fun same => first.command.imp same.trans same.trans) .inr
  zeroing := fun is => first.zeroing (second.zeroing is)
  zeroWaits := fun zero => by
    have kept : e'.command = some .zero := by
      rcases second.command with same | gone
      · rw [← same, zero]
      · rw [gone] at zero; cases zero
    exact (second.zeroWaits zero).trans (first.zeroWaits kept)

/-- A rewriting of the last reply, the toggle and the diagnostics. -/
theorem StationEntry.Turns.of_same (presence : e'.presence = e.presence) (misses : e'.missCount = e.missCount)
    (command : e'.command = e.command ∨ e'.command = none) (zeroing : e'.zeroing = e.zeroing) : e.Turns e' where
  presence := fun ⟨absent, present, lost⟩ => ⟨fun is => misses.trans (absent (presence ▸ is)),
    fun is => misses ▸ present (presence ▸ is), fun is => misses.trans (lost (presence ▸ is))⟩
  command := command
  zeroing := fun is => zeroing ▸ is
  zeroWaits := fun _ => zeroing

theorem StationEntry.askAgain_turns (e : StationEntry) (kind : DiagKind) : e.Turns (e.askAgain kind) :=
  .of_same rfl rfl (.inl rfl) rfl

theorem StationEntry.goodReply_turns (e : StationEntry) (slot : LinkSlot) (f : Frame) (extra : List LinkChar) :
    e.Turns (e.goodReply slot f extra) := by
  have answered : ∀ e : StationEntry, e.Turns (e.answered f) := fun e =>
    ⟨fun _ => ⟨nofun, fun _ => Nat.zero_le 2, nofun⟩, .inl rfl, id, fun _ => rfl⟩
  have delivered : ∀ e : StationEntry, e.Turns (e.delivered slot f) := fun e => by
    unfold StationEntry.delivered
    split
    · split
      · exact .of_same rfl rfl (.inr rfl) rfl
      · exact .refl e
    · exact .refl e
  have resynced : ∀ e : StationEntry, e.Turns (e.resynced f) := fun e => by
    unfold StationEntry.resynced
    split
    · exact .of_same rfl rfl (.inl rfl) rfl
    · exact .refl e
  have zeroSeen : ∀ e : StationEntry, e.Turns (e.zeroSeen f) := fun e => by
    unfold StationEntry.zeroSeen
    split
    · next seen =>
      refine ⟨fun ⟨absent, present, lost⟩ => ⟨absent, present, lost⟩, .inl rfl, nofun, fun zero => ?_⟩
      have waits : e.command = some .zero := zero
      rw [waits] at seen
      simp at seen
    · exact .refl e
  have diagnosed : ∀ e : StationEntry, e.Turns (e.diagnosed slot extra) := fun e => by
    unfold StationEntry.diagnosed
    split
    · split
      · split
        · exact .of_same rfl rfl (.inl rfl) rfl
        · exact e.askAgain_turns _
      · exact e.askAgain_turns _
    · exact .refl e
  exact ((((answered e).trans (delivered _)).trans (resynced _)).trans (zeroSeen _)).trans (diagnosed _)

theorem StationEntry.missed_turns (e : StationEntry) (slot : LinkSlot) : e.Turns (e.missed slot) := by
  have counted : ∀ e : StationEntry, e.Turns (if e.presence = .present then
      if 3 ≤ e.missCount + 1 then
        { e with presence := .lost, missCount := 3, zeroing := false,
                 command := if e.command = some .zero then none else e.command }
      else { e with missCount := e.missCount + 1 } else e) := by
    intro e
    split
    · next present =>
      split
      · refine ⟨fun _ => ⟨nofun, nofun, fun _ => rfl⟩, ?_, nofun, fun zero => ?_⟩
        · show (if _ then _ else _ : Option Command) = _ ∨ _
          split
          · exact .inr rfl
          · exact .inl rfl
        · have waits : (if e.command = some .zero then none else e.command : Option Command) = some .zero := zero
          split at waits
          · cases waits
          · next other => exact absurd waits other
      · next few =>
        exact ⟨fun _ => ⟨fun is => absurd (present.symm.trans is) (by decide), fun _ => (by omega : e.missCount + 1 ≤ 2),
          fun is => absurd (present.symm.trans is) (by decide)⟩, .inl rfl, id, fun _ => rfl⟩
    · exact .refl e
  unfold StationEntry.missed
  dsimp only
  split
  · exact (e.askAgain_turns _).trans (counted _)
  · exact counted e

/-! ### The slots of the station link -/

theorem State.Acts.entry {st : Fin 24} (works : s.mapped st = true) (turns : (s.entry st).Turns e) :
    State.Acts .early s (s.putEntry st e) := .single (.entry (.inl works) turns)

theorem State.goodReply_works (st : Fin 24) (slot : LinkSlot) (f : Frame) (extra : List LinkChar)
    (works : s.mapped st = true) : s.Works (s.goodReply st slot f extra) := by
  have entry := State.Acts.entry works ((s.entry st).goodReply_turns slot f extra)
  unfold State.goodReply
  dsimp only
  split
  · exact .after entry (State.sample_works ..)
  · exact .of_early entry

theorem State.miss_acts (st : Fin 24) (slot : LinkSlot) (works : s.mapped st = true) :
    State.Acts .early s (s.miss st slot) := by
  have entry := State.Acts.entry works ((s.entry st).missed_turns slot)
  unfold State.miss
  dsimp only
  split
  · split
    · exact entry.trans (State.failRecord_acts ..)
    · exact entry
  · exact entry

theorem State.endSlot_works (s : State) (inTime : Bool) (chars : List LinkChar) : s.Works (s.endSlot inTime chars) := by
  unfold State.endSlot
  split
  · exact .of_early .refl
  · have moved : State.Acts .early s { s with scan := { station := s.scan.station + 1, slot := none } } :=
      .single (.aside rfl rfl rfl rfl rfl (.inr ⟨rfl, rfl⟩))
    dsimp only
    split
    · exact .of_early moved
    · next works =>
      have mapped : s.mapped s.scan.station = true := by
        have both : (!s.mapped s.scan.station) = false := (Bool.or_eq_false_iff.mp (Bool.eq_false_iff.mpr works)).2
        simpa using both
      split
      · exact .after moved (State.goodReply_works _ _ _ _ mapped)
      · exact .of_early (moved.trans (State.miss_acts _ _ mapped))

theorem State.beginSlot_acts (s : State) : State.Acts .early s s.beginSlot := by
  have scanned : ∀ (u : State) (scan : Scan), State.Acts .early u { u with scan := scan } := fun u scan =>
    .single (.aside rfl rfl rfl rfl rfl (.inr ⟨rfl, rfl⟩))
  unfold State.beginSlot
  split
  · dsimp only
    split
    · next k kind =>
      have mapped : s.mapped s.scan.station = true := by
        rw [State.nextSlotKind] at kind
        split at kind
        · next is => exact is
        · cases kind
      have entry := State.Acts.entry mapped (e := (s.entry s.scan.station).querySent k) (.of_same rfl rfl (.inl rfl) rfl)
      exact entry.trans (scanned _ _)
    · exact scanned _ _
  · exact .refl

/-! ### Berth hold and the conditions (R138, R141, R143) -/

theorem State.endHold_acts (off : s.berthHold = false) :
    State.Acts .late (State.forRecords { s with holdEnds := s.holdEnds + 1 } State.unpauseRecord) s.endHold := by
  have counted : State.berthHold { s with holdEnds := s.holdEnds + 1 } = false := off
  have passes : (State.forRecords { s with holdEnds := s.holdEnds + 1 } State.unpauseRecord).berthHold = false := by
    have same := State.forRecords_keeps (fun u => u.berth = s.berth) State.unpauseRecord (fun h u same => by
      unfold State.unpauseRecord State.withRecord
      split
      · dsimp only
        split
        · exact (State.berth_giveCommand ..).trans same
        · exact same
      · exact same) { s with holdEnds := s.holdEnds + 1 } rfl
    rw [State.berthHold_of_berth same, off]
  unfold State.endHold
  dsimp only
  generalize State.forRecords { s with holdEnds := s.holdEnds + 1 } State.unpauseRecord = v at passes ⊢
  have first : State.Acts .late v (v.forGroups (State.startWaitingFirst s.holdEnds)) :=
    State.Acts.forGroups (by decide) fun w g _ => by
      unfold State.startWaitingFirst
      split
      · split
        · exact w.startWaiting_acts (by decide) g
        · exact .refl
      · exact .refl
  have off' := (State.berthHold_of_berth (first.berth (by decide))).trans passes
  have trips := State.Acts.forRecords (ph := .late) (s := v.forGroups (State.startWaitingFirst s.holdEnds)) (by decide)
    fun w h same => w.takeDeferredTrip_acts h ((State.berthHold_of_berth same).trans off')
  exact (first.trans trips).trans (State.Acts.forGroups (by decide) fun w g _ => w.startWaiting_acts (by decide) g)

theorem State.takeHoldChange_taken (s : State) (was : Bool) :
    ∃ v, s.HoldTaken was v ∧ State.Acts .late v (s.takeHoldChange was) := by
  by_cases same : s.berthHold = was
  · exact ⟨s, .same same, by rw [State.takeHoldChange_of was same]⟩
  · cases now : s.berthHold with
    | true =>
      have before : was = false := by simpa [now] using same
      exact ⟨_, .begins before now, by rw [State.takeHoldChange_begins was before now]⟩
    | false =>
      have before : was = true := by simpa [now] using same
      exact ⟨_, .ends before now, by rw [State.takeHoldChange_ends was before now]; exact State.endHold_acts now⟩

/-- A taking of condition changes as a command's acts from the contact on. -/
theorem State.takeConditionChanges_ran {c : Instr} (inputs : State.Acts .input s u) (was : Conditions)
    (before : was.berthHold = s.berthHold) (rings : Rings c s) : State.Ran c s (u.takeConditionChanges was) := by
  have contact : State.Acts .early u (u.takeContact was) := by
    unfold State.takeContact
    split
    · exact State.Acts.forRecords (by decide) fun w h _ => w.contactArrives_acts h
    · exact .refl
  obtain ⟨v, taken, late⟩ := (u.takeContact was).takeHoldChange_taken was.berthHold
  have ramp : ∀ w : State, State.Acts .late w (w.takeRamp was u.conditions) := by
    intro w
    unfold State.takeRamp
    split
    · exact State.Acts.forGroups (by decide) fun w g _ => w.startWaiting_acts (by decide) g
    · exact .refl
  rw [State.takeConditionChanges_eq]
  refine ⟨u, _, v, _, inputs, contact, before ▸ taken, late.trans (ramp _), ?_⟩
  unfold State.takeEmergency
  split
  · exact .inr ⟨rfl, rings⟩
  · exact .inl rfl

/-! ### Commands made of acts -/

theorem State.Works.ran (works : s.Works t) (c : Instr) : State.Ran c s t := by
  obtain ⟨v, early, late⟩ := works
  exact ⟨s, v, v, t, .refl, early, .same (State.berthHold_of_berth (early.berth (by decide))), late, .inl rfl⟩

theorem State.Acts.ran (acts : State.Acts .early s t) (c : Instr) : State.Ran c s t := (State.Works.of_early acts).ran c

/-- Inputs that leave berth hold as it is. -/
theorem State.Acts.inputs_ran (acts : State.Acts .input s t) (same : t.berthHold = s.berthHold) (c : Instr) :
    State.Ran c s t := ⟨t, t, t, t, acts, .refl, .same same, .refl, .inl rfl⟩

/-- Inputs that leave no record moving. -/
theorem State.Acts.still_ran (acts : State.Acts .input s t) (still : ∀ h r, t.record? h = some r → r.state.moving = false)
    (c : Instr) : State.Ran c s t := ⟨t, t, t, t, acts, .refl, .still still, .refl, .inl rfl⟩

theorem State.Acts.putLine (s : State) (l : Fin 8) (b : BerthLine) : State.Acts .input s (s.putLine l b) :=
  .single (.aside rfl rfl rfl rfl rfl (.inl rfl))

theorem State.qualify_ran (s : State) (l : Fin 8) : State.Ran (.lineQualified l) s (s.qualify l) := by
  unfold State.qualify
  split
  · exact State.takeConditionChanges_ran (State.Acts.putLine s l _) s.conditions rfl
      (.inr (.inr (.inr ⟨l, rfl⟩)))
  · exact State.Acts.ran .refl _

/-- The conditions read the qualified levels of the lines and nothing else of them (R136, R138). -/
theorem State.berthHold_of_levels (config : t.config = s.config) (hold : t.softwareHold = s.softwareHold)
    (levels : ∀ l, (t.line l).qualified = (s.line l).qualified) : t.berthHold = s.berthHold := by
  have lineConfig : ∀ l, t.lineConfig l = s.lineConfig l := fun l => by rw [State.lineConfig, config]; rfl
  have active : t.lineActive = s.lineActive := funext fun l => by simp only [State.lineActive, levels, lineConfig]
  have linesOf : t.linesOf .hold = s.linesOf .hold := by simp only [State.linesOf, lineConfig]
  rw [State.berthHold, State.berthHold, State.condition, State.condition, linesOf, active, hold]

theorem State.changePin_ran (s : State) (l : Fin 8) (level : Level) (c : Instr) : State.Ran c s (s.changePin l level) := by
  unfold State.changePin
  split
  · exact State.Acts.ran .refl c
  · refine State.Acts.inputs_ran (State.Acts.putLine s l _) (State.berthHold_of_levels rfl rfl fun l' => ?_) c
    rw [State.line_putLine]
    split
    · next here => rw [here]
    · rfl

theorem State.warmReset_ran (s : State) (c : Instr) : State.Ran c s s.warmReset := by
  refine State.Acts.still_ran (.single (.warmReset s)) (fun h r at_h => ?_) c
  have reset : s.warmReset.record? h = (s.record? h).map Record.afterWarmReset := by
    simp only [State.record?, State.warmReset, getElem_mapEntries]
  rw [reset, Option.map_eq_some_iff] at at_h
  obtain ⟨r', -, rfl⟩ := at_h
  show r'.state.afterWarmReset.moving = false
  cases r'.state <;> rfl

/-! ### Requests -/

/-- What a request leaves: inputs alone, which take no change of berth hold, the blocks' own work, or a new record. -/
def State.Taking (s t : State) : Prop :=
  State.Acts .input s t ∧ (t.berthHold = s.berthHold ∨ ∀ h r, t.record? h = some r → r.state.moving = false) ∨
    State.Acts .early s t ∨ s.Assigned t

theorem State.Acts.taking (acts : State.Acts .early s t) : s.Taking t := .inr (.inl acts)

theorem withReference_acts {ref : Byte} {k : Fin 32 → Record → Taken}
    (one : ∀ h r, s.record? h = some r → State.Acts .early s (k h r).1) :
    State.Acts .early s (withReference s ref k).1 := by
  unfold withReference
  split
  · split
    · next r at_h => exact one _ r at_h
    · exact .refl
  · exact .refl

/-- A request on a target does what its action does with each record that passes. -/
theorem RecordAction.onTarget_acts {a : RecordAction} {whole : State → Option Result}
    (act : whole s = none → ∀ (u : State) h r, u.berth = s.berth → u.record? h = some r → a.refusal u r = none →
      State.Acts .early u (a.act u h)) (kind value : Byte) : State.Acts .early s (a.onTarget whole s kind value).1 := by
  have members : whole s = none → ∀ l : List (Fin 32), State.Acts .early s (a.onMembers s l).1 := by
    intro pass l
    have act := act pass
    refine foldl_keeps (fun acc : State × Nat × Nat => State.Acts .early s acc.1) _ (fun acc h acts => ?_) l (s, 0, 0) .refl
    unfold RecordAction.weigh
    split
    · next r at_h =>
      split
      · next pass => exact acts.trans (act _ h r (acts.berth (by decide)) at_h pass)
      · exact acts
    · exact acts
  unfold RecordAction.onTarget
  split
  · exact .refl
  · refine withReference_acts fun h r at_h => ?_
    split
    · exact .refl
    · next taken =>
      split
      · exact .refl
      · next pass => exact act taken s h r rfl at_h pass
  · split
    · exact .refl
    · next taken => exact members taken _
  · split
    · exact .refl
    · next taken => exact members taken _

theorem unlessState_none {permitted : LineState → Bool} (pass : unlessState permitted s r = none) :
    permitted r.state = true := by
  cases may : permitted r.state with
  | true => rfl
  | false => simp [unlessState, may] at pass

theorem armRefusal_none (pass : armRefusal s r = none) : r.state = .prepared ∧
    (s.entry r.station).presence = .present ∧ s.engagedOn r.station = none ∧ (s.entry r.station).zeroing = false := by
  unfold armRefusal at pass
  split at pass
  · cases pass
  · next prepared =>
    split at pass
    · cases pass
    · next present =>
      split at pass
      · cases pass
      · next alone =>
        split at pass
        · cases pass
        · next idle => exact ⟨by simpa using prepared, by simpa using present, by simpa using alone, by simpa using idle⟩

theorem takeArm_acts (kind value : Byte) : State.Acts .early s (takeArm kind value s).1 := by
  refine RecordAction.onTarget_acts (fun configured u h r same at_h pass => ?_) kind value
  have is : u.configured = true := by
    have kept : u.configured = s.configured := congrArg (fun b => b.2.1) same
    rw [kept]
    simpa [unlessConfigured] using configured
  obtain ⟨prepared, present, alone, idle⟩ := armRefusal_none pass
  show State.Acts .early u (armRecord u h)
  have armed : State.Acts .early u (u.putRecord h { r with state := .armed, deadline := .absent }) :=
    .single (.arms at_h prepared is present alone idle)
  unfold armRecord
  dsimp only
  rw [State.modifyRecord_some at_h]
  split
  · exact armed.trans (State.enterPaying_acts (State.record?_putRecord_self ..) rfl)
  · exact armed

theorem Record.calm_applied (r : Record) (part : PendingPart) : r.Calm (r.applied part) := ⟨rfl, rfl, rfl, .inr rfl⟩

theorem takeApply_acts (kind value : Byte) : State.Acts .early s (takeApply kind value s).1 := by
  refine RecordAction.onTarget_acts (fun _ u h r _ at_h _ => ?_) kind value
  show State.Acts .early u (applyRecord u h)
  rw [applyRecord, State.withRecord_some at_h]
  split
  · exact .refl
  · next part _ =>
    have applied := r.calm_applied part
    dsimp only
    split
    · exact State.Acts.calm at_h ⟨rfl, rfl, rfl, .inr rfl⟩
    · next hauling =>
      split
      · exact State.Acts.calm at_h applied
      · exact .single (.gives at_h (applied.rewrites u) (by rw [applied.state, hauling]; rfl) ⟨nofun, nofun⟩)
    · exact State.Acts.calm at_h applied

theorem takeRelease_acts (kind value : Byte) : State.Acts .early s (takeRelease kind value s).1 := by
  unfold takeRelease
  split
  · exact .refl
  · refine withReference_acts fun h r at_h => ?_
    split
    · exact .refl
    · next may =>
      split
      · exact .refl
      · next clear =>
        exact .single (.releases at_h (LineState.engaged_of_releasable (by simpa using may)) (.inr (by simpa using clear)) (by decide))
  · unfold releaseGroup
    split
    · exact .refl
    · next clear =>
      split
      · exact .refl
      · exact .single (.starts (by simpa using clear) (by decide))
  · unfold releaseBerth
    split
    · exact .refl
    · next clear =>
      have clear : s.interlocked = false := by simpa using clear
      have fold := foldl_keeps (fun acc : State × Nat => State.Acts .early s acc.1) releaseNextGroup (fun acc g acts => by
        unfold releaseNextGroup
        split
        · exact acts
        · exact acts.tail (.starts ((State.interlocked_of_berth (acts.berth (by decide))).trans clear) (by decide)))
        (List.finRange 8) (s, 0) .refl
      simp only [doneCounts, doneWith]
      exact fold

theorem takeClearFault_acts (ref : Byte) : State.Acts .early s (takeClearFault ref s).1 := by
  refine withReference_acts fun h r at_h => ?_
  dsimp only
  split
  · exact .refl
  · next state =>
    have fault : r.state = .fault := by simpa using state
    split
    · exact .refl
    · split
      · exact State.Acts.rewrite at_h
          (.stops rfl rfl rfl (fun _ => by rw [fault]; rfl) (by rw [fault]; decide) (.inr rfl))
      · split
        · exact .single (.rewinds at_h (.inr fault))
        · exact .refl

theorem takeNextNotice_acts : State.Acts .early s (takeNextNotice s).1 := by
  have found : ∀ {test : Record → Bool} {h r}, s.lowestWith test = some (h, r) → s.record? h = some r := by
    intro test h r e
    obtain ⟨h', _, e⟩ := List.exists_of_findSome?_eq_some e
    rw [Option.map_eq_some_iff] at e
    obtain ⟨r', mem, e⟩ := e
    rw [Option.filter_eq_some_iff] at mem
    cases e
    exact mem.1
  unfold takeNextNotice
  split
  · next e => exact State.Acts.quiet (found e) _ _ _ _ _
  · split
    · next e =>
      split at e
      · exact State.Acts.quiet (found e) _ _ _ _ _
      · cases e
    · exact .refl

theorem takeStationQuery_acts (station kind : Byte) : State.Acts .early s (takeStationQuery station kind s).1 := by
  unfold takeStationQuery
  split
  · next st k _ _ =>
    have turns : (s.entry st).Turns { s.entry st with pendingKind := s.kindAfterQuery st k } :=
      .of_same rfl rfl (.inl rfl) rfl
    refine .single (.entry ?_ turns)
    cases works : s.mapped st with
    | true => exact .inl rfl
    | false =>
      refine .inr ?_
      cases k <;> simp [State.kindAfterQuery, works]
  · exact .refl
  · exact .refl
  · split <;> exact .refl

theorem takeZero_acts (station : Byte) : State.Acts .early s (takeZero station s).1 := by
  unfold takeZero
  split
  · exact .refl
  · dsimp only
    split
    · exact .refl
    · split
      · exact .refl
      · next present =>
        split
        · exact .refl
        · split
          · exact .refl
          · next alone =>
            split
            · exact .refl
            · exact .single (.zero (by simpa using present) (by simpa using alone))

theorem takeConfigureBerth_taking (body : BerthBody) : s.Taking (takeConfigureBerth body s).1 := by
  rw [takeConfigureBerth]
  split
  · exact State.Acts.taking .refl
  · next passes =>
    have rest : s.AllRest := by
      intro h r at_h
      have still : ((List.finRange 32).any fun h => s.holds h fun r => r.state.engaged) = false := by
        cases some' : (List.finRange 32).any fun h => s.holds h fun r => r.state.engaged with
        | false => rfl
        | true =>
          simp only [configureRefusal, some'] at passes
          split at passes <;> cases passes
      by_contra busy
      rw [not_or] at busy
      exact absurd (s.anyEngaged_iff.mpr ⟨h, r, at_h, busy.1, busy.2⟩) (by rw [still]; decide)
    have times : body.timeoutsInRange = true := by
      cases late : body.timeoutsInRange with
      | true => rfl
      | false =>
        simp only [configureRefusal, late] at passes
        split at passes
        · cases passes
        · split at passes <;> cases passes
    have frame := s.configuredBy_frame body
    have entries := s.entry_configuredBy body
    show s.Taking (configureEffect body s)
    rw [configureEffect_eq]
    have restC : (s.configuredBy body).AllRest := by rw [frame]; exact rest
    obtain ⟨whole, groups⟩ := State.takeConditionChanges_rest restC s.conditions
    generalize s.configuredBy body = c at frame entries restC whole groups
    generalize c.takeConditionChanges s.conditions = t at whole groups
    have table : t.table = s.table := by rw [whole, frame]
    have config : t.config = body.config := by rw [whole, frame]
    have records : ∀ h, t.record? h = s.record? h := fun h => by rw [State.record?, table]; rfl
    refine .inl ⟨.single (.configured ⟨rest, table, ?_, by rw [whole, frame], fun st => ?_, fun g stage members n is => ?_⟩),
      .inr fun h r at_h => ?_⟩
    · have bounds := (BerthBody.timeoutsInRange_iff body).mp times
      rw [config]
      simp only [List.forall_mem_cons] at bounds
      obtain ⟨pay, fast, haul, clear, stall, stage, -⟩ := bounds
      exact ⟨pay, fast, haul, clear, stall, stage⟩
    · have same : t.entry st = c.entry st := by rw [whole]; rfl
      rw [same, entries, State.mapped, State.mapped, config]
      rfl
    · have kept : c.groupEntry g = s.groupEntry g := by rw [frame]; rfl
      rw [groups, kept] at is
      split at is
      · cases is
      · cases entry : s.groupEntry g with
        | idle => rw [entry] at is; cases is
        | running => rw [entry] at is; exact is
        | waiting =>
          rw [entry, GroupEntry.overIf] at is
          split at is <;> cases is
    · rw [records] at at_h
      rcases rest h r at_h with is | is <;> rw [is] <;> rfl

theorem takeAssign_taking (a : AssignBody) : s.Taking (takeAssign a s).1 := by
  unfold takeAssign
  split
  · exact State.Acts.taking .refl
  · next place _ =>
    split
    · exact State.Acts.taking .refl
    · next free =>
      split
      · exact State.Acts.taking .refl
      · next h found =>
        have none' : (s.record? h).isNone = true := List.find?_some (p := fun h => (s.record? h).isNone) found
        exact .inr (.inr ⟨a, place, h, Option.isNone_iff_eq_none.mp none', by simpa using free, rfl⟩)

/-- What each request leaves. -/
theorem runRequest_taking (code : RequestCode) (body : List Byte) : s.Taking (runRequest code body s).1 := by
  cases code
  case configureBerth => exact takeConfigureBerth_taking _
  case assign => exact takeAssign_taking _
  case arm => exact (takeArm_acts _ _).taking
  case disarm =>
    refine State.Acts.taking (RecordAction.onTarget_acts (fun _ u h r _ at_h pass => ?_) _ _)
    have armed : r.state = .armed := by simpa using unlessState_none (s := u) (permitted := fun state => state = .armed) pass
    show State.Acts .early u (u.modifyRecord h _)
    rw [State.modifyRecord_some at_h]
    exact State.Acts.rewrite at_h
      (.stops rfl rfl rfl (fun is => by cases is) (by rw [armed]; decide) (.inr rfl))
  case set =>
    refine State.Acts.taking (RecordAction.onTarget_acts (fun _ u h r _ at_h _ => ?_) _ _)
    show State.Acts .early u (u.modifyRecord h _)
    rw [State.modifyRecord_some at_h]
    exact State.Acts.calm at_h ⟨rfl, rfl, rfl, .inr rfl⟩
  case apply => exact (takeApply_acts _ _).taking
  case holdLine =>
    refine State.Acts.taking (RecordAction.onTarget_acts (fun _ u h r _ at_h pass => ?_) _ _)
    have tending : r.state = .tending := by simpa using unlessState_none (s := u) (permitted := fun state => state = .tending) pass
    show State.Acts .early u (u.modifyRecord h _)
    rw [State.modifyRecord_some at_h]
    exact State.Acts.rewrite at_h
      (.stops rfl rfl rfl (fun _ => by rw [tending]; rfl) (by rw [tending]; decide) (.inr rfl))
  case resume =>
    refine State.Acts.taking (RecordAction.onTarget_acts (fun _ u h r _ at_h pass => ?_) _ _)
    have held : r.state = .held := by
      by_contra other
      simp [resumeAction, other] at pass
    show State.Acts .early u (u.modifyRecord h _)
    rw [State.modifyRecord_some at_h]
    exact State.Acts.rewrite at_h
      (.stops rfl rfl rfl (fun _ => by rw [held]; rfl) (by rw [held]; decide) (.inr rfl))
  case release => exact (takeRelease_acts _ _).taking
  case clearFault => exact (takeClearFault_acts _).taking
  case retire =>
    show s.Taking (takeRetire _ _ s).1
    unfold takeRetire
    split
    · exact State.Acts.taking .refl
    · refine State.Acts.taking (RecordAction.onTarget_acts (fun _ u h r _ at_h pass => ?_) _ _)
      have idle : (r.state = .stowed || r.state = .prepared) = true :=
        unlessState_none (s := u) (permitted := fun state => state = .stowed || state = .prepared) pass
      exact .single (.frees at_h (by simpa using idle))
  case abandon =>
    refine State.Acts.taking (withReference_acts (s := s) fun h r at_h => ?_)
    exact .single (.abandons at_h)
  case readRecord =>
    exact State.Acts.taking (withReference_acts (k := fun h r => doneWith s (r.snapshot (s.refOf h))) fun _ _ _ => .refl)
  case find =>
    have reply : ∀ kind value test, s.Taking (findReply s kind value test).1 := fun _ _ _ => State.Acts.taking .refl
    have refused : ∀ result, s.Taking (refuse s result).1 := fun _ => State.Acts.taking .refl
    show s.Taking (takeFind _ _ s).1
    unfold takeFind
    split
    · split
      · exact reply _ _ _
      · exact refused _
    · exact reply _ _ _
    · split
      · exact reply _ _ _
      · exact refused _
    · exact refused _
  case nextNotice => exact takeNextNotice_acts.taking
  case ackEmergency =>
    show s.Taking (takeAckEmergency s).1
    unfold takeAckEmergency
    split
    · exact State.Acts.taking .refl
    · exact State.Acts.taking (.single (.aside rfl rfl rfl rfl rfl (.inr ⟨rfl, rfl⟩)))
  case stationQuery => exact (takeStationQuery_acts _ _).taking
  case zero => exact (takeZero_acts _).taking
  case proveStart =>
    refine State.Acts.taking (withReference_acts (s := s) fun h r at_h => ?_)
    split
    · split
      · exact .refl
      · split
        · exact .refl
        · exact State.Acts.quiet at_h _ _ _ _ _
    · exact .refl
  case proveRelease =>
    refine State.Acts.taking (withReference_acts (s := s) fun h r at_h => ?_)
    split
    · split
      · exact State.Acts.quiet at_h _ _ _ _ _
      · exact .refl
    · exact .refl
  case proveStop =>
    refine State.Acts.taking (withReference_acts (s := s) fun h r at_h => ?_)
    split
    · exact State.Acts.quiet at_h _ _ _ _ _
    · exact .refl
  case readBerth => exact State.Acts.taking .refl
  case setOutputs =>
    show s.Taking (s.writeLatches _)
    obtain ⟨lines, frame⟩ := s.writeLatches_frame (byteAt body 0)
    refine .inl ⟨.single (.aside ?_ ?_ ?_ ?_ ?_ (.inl rfl)),
      .inl (State.berthHold_of_levels ?_ ?_ fun l => by rw [State.line_writeLatches])⟩
    all_goals rw [frame]

end Sys2Proof.Machine
end

section
/-! PROOF. Every command is made of acts, and what every act keeps every step keeps. With it the station rules (R9, R31) and
the fixed identity of a record (R1 to R4, R7, R17). -/

namespace Sys2Proof.Machine

variable {s t u : State} {h : Fin 32} {r r' : Record} {ph : Phase} {c : Instr}

/-! ### The port -/

/-- A byte written to location 0 changes the port alone, or completes a request. -/
theorem State.writeByte_cases (s : State) (b : Byte) : (∃ p, s.writeByte b = s.over p s.pending) ∨
    ∃ code body p, s.writeByte b = (answerRequest code body s).1.over p s.pending ∧ p.executing.isSome = true := by
  have taken : ∀ (p : Port) code body, ∃ p', State.takeRequest { s with port := p } code body =
      (answerRequest code body s).1.over p' s.pending ∧ p'.executing.isSome = true := by
    intro p code body
    have answered : answerRequest code body { s with port := p } = Taken.over (answerRequest code body s) p s.pending :=
      answerRequest_over s p s.pending code body
    rw [State.takeRequest, answered]
    exact ⟨_, rfl, rfl⟩
  unfold State.writeByte
  split
  · unfold State.fillMailbox
    split
    · split
      · exact .inl ⟨_, rfl⟩
      · split
        · exact .inr ⟨_, _, taken _ _ _⟩
        · exact .inl ⟨_, rfl⟩
    · exact .inl ⟨_, rfl⟩
  · exact .inl ⟨_, rfl⟩

/-- While a request executes no byte is taken (R170). -/
theorem State.writeBytes_executing (bytes : List Byte) (s : State) (busy : s.port.executing.isSome = true) :
    ∃ p, bytes.foldl State.writeByte s = s.over p s.pending := by
  induction bytes generalizing s with
  | nil => exact ⟨s.port, rfl⟩
  | cons b rest ih =>
    have refused : s.writeByte b = s.over { s.port with overrun := true } s.pending := by
      have closed : s.port.requestOpen = false := by
        rw [Port.requestOpen, Option.isNone_eq_false_iff.mpr busy, Bool.false_and]
      rw [State.writeByte, closed, if_neg Bool.false_ne_true]
      rfl
    rw [List.foldl_cons, refused]
    exact ih (s.over _ _) busy

/-- The bytes of a message complete at most one request. -/
theorem State.writeBytes_cases (bytes : List Byte) (s : State) : (∃ p, bytes.foldl State.writeByte s = s.over p s.pending) ∨
    ∃ code body p, bytes.foldl State.writeByte s = (answerRequest code body s).1.over p s.pending := by
  induction bytes generalizing s with
  | nil => exact .inl ⟨s.port, rfl⟩
  | cons b rest ih =>
    rw [List.foldl_cons]
    rcases s.writeByte_cases b with ⟨p, first⟩ | ⟨code, body, p, first, busy⟩
    · rw [first]
      rcases ih (s.over p s.pending) with ⟨p', all⟩ | ⟨code, body, p', all⟩
      · exact .inl ⟨p', all⟩
      · refine .inr ⟨code, body, p', ?_⟩
        rw [all, answerRequest_over]
        rfl
    · rw [first]
      obtain ⟨p', all⟩ := State.writeBytes_executing rest ((answerRequest code body s).1.over p s.pending) busy
      exact .inr ⟨code, body, p', all⟩

/-- The three forms of a command: a power-on reset, an ASSIGN that passes, and acts in their phases. -/
def State.Does (c : Instr) (s t : State) : Prop :=
  c = .powerOnReset ∧ t = s.powerOnReset ∨ (∃ u p q, s.Assigned u ∧ t = u.over p q) ∨ State.Ran c s t

theorem State.Ran.does (ran : State.Ran c s t) : State.Does c s t := .inr (.inr ran)

theorem State.over_does (p : Port) (q : List Instr) (c : Instr) : State.Does c s (s.over p q) :=
  ((State.Acts.over p q).ran c).does

theorem State.answered_does (code : Byte) (body : List Byte) (p : Port) (q : List Instr) (c : Instr) :
    State.Does c s ((answerRequest code body s).1.over p q) := by
  unfold answerRequest
  split
  · next request _ =>
    rcases runRequest_taking (s := s) request body with ⟨acts, same | still⟩ | acts | assigned
    · exact (State.Acts.inputs_ran (acts.trans (State.Acts.over p q)) same c).does
    · exact (State.Acts.still_ran (acts.trans (State.Acts.over p q)) still c).does
    · exact (State.Acts.ran (acts.trans (State.Acts.over p q)) c).does
    · exact .inr (.inl ⟨_, p, q, assigned, rfl⟩)
  · exact State.over_does p q c

theorem State.writeBytes_does (bytes : List Byte) (c : Instr) : State.Does c s (bytes.foldl State.writeByte s) := by
  rcases State.writeBytes_cases bytes s with ⟨p, all⟩ | ⟨code, body, p, all⟩
  · rw [all]; exact State.over_does p _ c
  · rw [all]; exact State.answered_does code body p _ c

/-! ### Urgent codes -/

theorem State.takeUrgent_ran (p : Port) (q : List Instr) (code : UrgentCode) (rings : code = .releaseAll → Rings c s) :
    State.Ran c s ((s.over p q).takeUrgent code) := by
  have software : ∀ on, State.Ran c s ((s.over p q).writeSoftwareHold on) := by
    intro on
    obtain ⟨v, taken, late⟩ := State.takeHoldChange_taken { s.over p q with softwareHold := on } (s.over p q).berthHold
    exact ⟨{ s.over p q with softwareHold := on }, _, v, _, .single (.aside rfl rfl rfl rfl rfl (.inl rfl)), .refl, taken,
      late, .inl rfl⟩
  cases code with
  | holdAll => exact software true
  | resumeAll => exact software false
  | releaseAll => exact ⟨_, _, _, _, State.Acts.over p q, .refl, .same rfl, .refl, .inr ⟨rfl, rings rfl⟩⟩

theorem State.postUrgent_ran (code : UrgentCode) (rings : code = .releaseAll → Rings c s) :
    State.Ran c s (s.postUrgent code) := by
  unfold State.postUrgent
  dsimp only
  split
  · exact State.takeUrgent_ran { s.port with posted := none } s.pending code rings
  · exact (State.Acts.over { s.port with posted := some code } s.pending).ran c

theorem State.writeUrgent_ran (value : Byte) (rings : value = 3 → Rings c s) : State.Ran c s (s.writeUrgent value) := by
  unfold State.writeUrgent
  split
  · exact (State.Acts.over { s.port with posted := none } s.pending).ran c
  · exact State.postUrgent_ran _ nofun
  · exact State.postUrgent_ran _ nofun
  · next three => exact State.postUrgent_ran _ fun _ => rings (BitVec.eq_of_toNat_eq three)
  · exact State.Acts.ran .refl c

theorem State.endRequest_ran (s : State) : State.Ran .requestEnd s s.endRequest := by
  have kept : s.port.replied.posted = s.port.posted := by
    unfold Port.replied
    split
    · split <;> rfl
    · rfl
  unfold State.endRequest
  split
  · unfold State.takePosted
    split
    · next code posted =>
      have was : s.port.posted = some code := kept.symm.trans posted
      exact State.takeUrgent_ran { s.port.replied with posted := none } s.pending code
        fun all => .inr (.inr (.inl ⟨rfl, by rw [was, all]⟩))
    · exact (State.Acts.over s.port.replied s.pending).ran _
  · exact State.Acts.ran .refl _

/-! ### Commands and steps -/

theorem exec_does (c : Instr) (next : exec c s = .next t) : State.Does c s t := by
  have beside : ∀ p, State.Does c s { s with port := p } := fun p => State.over_does p s.pending c
  cases c
  case requestByteWrite b => cases next; exact State.writeBytes_does [b] _
  case requestEnd => cases next; exact s.endRequest_ran.does
  case replyByteRead => cases next; exact beside _
  case statusRead => cases next; exact beside _
  case portAbort v =>
    cases next
    unfold State.writeControl
    split
    · exact beside _
    · exact (State.Acts.ran .refl _).does
  case enablesWrite v =>
    cases next
    have written : State.Acts .early s (s.writeEnables v) := .single (.aside rfl rfl rfl rfl rfl (.inr ⟨rfl, rfl⟩))
    exact (written.ran _).does
  case holdAll => cases next; exact (State.writeUrgent_ran 1 fun no => absurd no (by decide)).does
  case resumeAll => cases next; exact (State.writeUrgent_ran 2 fun no => absurd no (by decide)).does
  case releaseAll => cases next; exact (State.writeUrgent_ran 3 fun _ => .inl rfl).does
  case urgentWithdrawal => cases next; exact (State.writeUrgent_ran 0 fun no => absurd no (by decide)).does
  case urgentCodeInvalid v =>
    cases next
    exact (State.writeUrgent_ran v fun three => .inr (.inl (by rw [three]))).does
  case powerOnReset => cases next; exact .inl ⟨rfl, rfl⟩
  case warmReset =>
    have e : t = s.warmReset := (Host.Outcome.next.inj next).symm
    rw [e]
    exact (s.warmReset_ran _).does
  case slotStart => cases next; exact (s.beginSlot_acts.ran _).does
  case slotEnd inTime chars => cases next; exact ((s.endSlot_works inTime chars).ran _).does
  case deadlineExpiry x => cases next; exact ((s.expireDeadline_acts _ _).ran _).does
  case stageDeadlineExpiry x => cases next; exact ((s.expireStage_acts _ _).ran _).does
  case lineQualified l => cases next; exact (s.qualify_ran l).does
  case berthLinePinChange l level => cases next; exact (s.changePin_ran l level _).does
  all_goals (cases next; exact State.writeBytes_does _ _)

theorem State.pauseRecord_acts (s : State) (h : Fin 32) : State.Acts .hold s (State.pauseRecord h s) := by
  unfold State.pauseRecord State.withRecord
  split
  · next r at_h =>
    dsimp only
    split
    · next moving => exact .single (.holds at_h moving (.inl rfl) ⟨nofun, nofun⟩)
    · exact .refl
  · exact .refl

theorem State.unpauseRecord_acts (s : State) (h : Fin 32) : State.Acts .hold s (State.unpauseRecord h s) := by
  unfold State.unpauseRecord State.withRecord
  split
  · next r at_h =>
    dsimp only
    split
    · next moving =>
      have other : r.moveCommand ≠ .zero ∧ r.moveCommand ≠ .free := by
        unfold Record.moveCommand
        split <;> exact ⟨nofun, nofun⟩
      exact .single (.holds at_h moving (.inr rfl) other)
    · exact .refl
  · exact .refl

theorem State.HoldTaken.acts {was : Bool} (taken : s.HoldTaken was t) : State.Acts .hold s t := by
  cases taken with
  | same | still => exact .refl
  | begins => exact State.Acts.forRecords (by decide) fun u h _ => u.pauseRecord_acts h
  | ends =>
    have counted : State.Acts .hold s { s with holdEnds := s.holdEnds + 1 } :=
      .single (.aside rfl rfl rfl rfl rfl (.inr ⟨rfl, rfl⟩))
    exact counted.trans (State.Acts.forRecords (by decide) fun u h _ => u.unpauseRecord_acts h)

variable {I : State → Prop}

theorem State.Acts.keeps (act : ∀ s t, I s → State.Act ph s t → I t) (acts : State.Acts ph s t) (good : I s) : I t := by
  induction acts with
  | refl => exact good
  | tail _ one ih => exact act _ _ ih one

/-- What every act keeps, a command made of acts keeps. -/
theorem State.Ran.keeps (act : ∀ ph s t, I s → State.Act ph s t → I t) (ran : State.Ran c s t) (good : I s) : I t := by
  obtain ⟨s0, s1, s2, s3, input, early, taken, late, last⟩ := ran
  have good0 : I s0 := State.Acts.keeps (act _) input good
  have good1 : I s1 := State.Acts.keeps (act _) early good0
  have good2 : I s2 := State.Acts.keeps (act _) taken.acts good1
  have good3 : I s3 := State.Acts.keeps (act _) late good2
  rcases last with e | ⟨e, -⟩
  · rw [e]; exact good3
  · rw [e]; exact State.Acts.keeps (act _) s3.setEmergency_acts good3

/-- What the reset, a new record and every act keep, every step keeps. -/
theorem step_keeps (reset : ∀ s : State, I s.powerOnReset) (assigned : ∀ s t, I s → s.Assigned t → I t)
    (act : ∀ ph s t, I s → State.Act ph s t → I t) (next : step s = .next t) (good : I s) : I t := by
  have beside : ∀ (u : State) p q, I u → I (u.over p q) := fun u p q good =>
    act .early _ _ good (.aside rfl rfl rfl rfl rfl (.inr ⟨rfl, rfl⟩))
  unfold step at next
  split at next
  · have e : t = s.passTime 1 := (Host.Outcome.next.inj next).symm
    rw [e]
    exact act _ _ _ good (.pass s 1)
  · next command rest _ =>
    have good' : I { s with pending := rest } := beside s s.port rest good
    rcases exec_does command next with ⟨-, e⟩ | ⟨u, p, q, new, e⟩ | ran
    · rw [e]; exact reset _
    · rw [e]; exact beside u p q (assigned _ _ good' new)
    · exact ran.keeps act good'

end Sys2Proof.Machine
end

section
/-! PROOF. What an act does to the slots of the line table, and from it the station rules (R9, R31) and the fixed identity of
a record (R1 to R4, R7, R17). -/

namespace Sys2Proof.Machine

variable {s t u : State} {h : Fin 32} {r r' : Record} {ph : Phase} {c : Instr}

/-- A slot stays FREE, loses its record with a higher generation, or keeps a record of the same identity, which is engaged
only if it was. -/
inductive State.SlotKept (s t : State) (h : Fin 32) : Prop
  | free (was : s.record? h = none) (now : t.record? h = none) (gen : t.generation h = s.generation h)
  | freed {r : Record} (was : s.record? h = some r) (now : t.record? h = none)
      (gen : t.generation h = s.generation h + 1)
  | kept {r r' : Record} (was : s.record? h = some r) (now : t.record? h = some r')
      (gen : t.generation h = s.generation h) (line : r'.identity = r.identity)
      (engaged : r'.state.engaged = true → r.state.engaged = true)

theorem State.SlotKept.of_same (record : t.record? h = s.record? h) (gen : t.generation h = s.generation h) :
    s.SlotKept t h := by
  cases was : s.record? h with
  | none => exact .free was (record.trans was) gen
  | some r => exact .kept was (record.trans was) gen rfl id

theorem State.SlotKept.trans (first : s.SlotKept t h) (second : t.SlotKept u h) : s.SlotKept u h := by
  cases first with
  | free was now gen =>
    cases second with
    | free _ now' gen' => exact .free was now' (gen'.trans gen)
    | freed was' | kept was' => rw [now] at was'; cases was'
  | freed was now gen =>
    cases second with
    | free _ now' gen' => exact .freed was now' (gen'.trans gen)
    | freed was' | kept was' => rw [now] at was'; cases was'
  | kept was now gen line engaged =>
    cases second with
    | free was' => rw [now] at was'; cases was'
    | freed _ now' gen' => exact .freed was now' (gen'.trans (by rw [gen]))
    | kept was' now' gen' line' engaged' =>
      rw [now] at was'
      cases was'
      exact .kept was now' (gen'.trans gen) (line'.trans line) fun is => engaged (engaged' is)

theorem State.slotKept_put (at_h : s.record? h = some r) (line : r'.identity = r.identity)
    (engaged : r'.state.engaged = true → r.state.engaged = true) (h' : Fin 32) : s.SlotKept (s.putRecord h r') h' := by
  by_cases here : h' = h
  · subst here
    exact .kept at_h (s.record?_putRecord_self h' r') (s.generation_putRecord ..) line engaged
  · exact .of_same (s.record?_putRecord_ne r' here) (s.generation_putRecord ..)

theorem State.SlotKept.give {h' : Fin 32} (kept : s.SlotKept t h') (st : Fin 24) (c : Command) :
    s.SlotKept (t.giveCommand st c) h' := kept.trans (.of_same (by simp) (by simp))

theorem State.slotKept_putGive (at_h : s.record? h = some r) (line : r'.identity = r.identity)
    (engaged : r'.state.engaged = true → r.state.engaged = true) (st : Fin 24) (c : Command) (h' : Fin 32) :
    s.SlotKept ((s.putRecord h r').giveCommand st c) h' :=
  (State.slotKept_put at_h line engaged h').give st c

theorem State.slotKept_freeSlot (at_h : s.record? h = some r) (h' : Fin 32) : s.SlotKept (s.freeSlot h) h' := by
  by_cases here : h' = h
  · subst here
    exact .freed at_h (by rw [State.record?_freeSlot, if_pos rfl]) (by rw [State.generation_freeSlot, if_pos rfl])
  · exact .of_same (by rw [State.record?_freeSlot, if_neg here]) (by rw [State.generation_freeSlot, if_neg here])

/-- The slots kept since a state stand through what the Release Sequencer does. -/
theorem State.steady_slots (s : State) (h : Fin 32) : State.Steady fun u => s.SlotKept u h where
  group _ _ _ kept _ := kept.trans (.of_same rfl rfl)
  release u h' r kept at_h engaged _ := by
    rw [State.enterReleasing, State.withRecord_some at_h]
    exact kept.trans (State.slotKept_putGive at_h (by rfl) (fun _ => engaged) _ _ h)

theorem State.slotKept_map {f : Record → Record} (line : ∀ r, (f r).identity = r.identity)
    (engaged : ∀ r, (f r).state.engaged = true → r.state.engaged = true)
    (records : ∀ h, t.record? h = (s.record? h).map f) (gen : ∀ h, t.generation h = s.generation h) (h : Fin 32) :
    s.SlotKept t h := by
  cases was : s.record? h with
  | none => exact .free was ((records h).trans (by rw [was]; rfl)) (gen h)
  | some r => exact .kept was ((records h).trans (by rw [was]; rfl)) (gen h) (line r) (engaged r)

theorem State.generation_warmReset (s : State) (h : Fin 32) : s.warmReset.generation h = s.generation h := by
  simp only [State.generation, State.warmReset, getElem_mapEntries]

theorem LineState.engaged_afterWarmReset (state : LineState) (is : state.afterWarmReset.engaged = true) :
    state.engaged = true := by
  cases state <;> first | rfl | cases is

/-- The record of slot `h` is armed, alone of all that change. -/
structure State.ArmedAt (s t : State) (h : Fin 32) (r : Record) : Prop where
  at_h : s.record? h = some r
  alone : s.engagedOn r.station = none
  prepared : r.state = .prepared
  becomes : t = s.putRecord h { r with state := .armed, deadline := .absent }

/-- The record part of the entry to REWINDING (R46, R106). -/
def Record.rewinding (r : Record) (d : Deadline) : Record :=
  { r with state := .rewinding, faultCause := none, deadline := d }

/-- Entry to REWINDING: the record rewritten, a command given and the member removed. -/
theorem State.enterRewinding_shape (at_h : s.record? h = some r) : ∃ d c,
    (d = .running s.config.timeouts.stall ∧ s.berthHold = false ∨ d = .frozen s.config.timeouts.stall ∧ s.berthHold = true) ∧
    (c ≠ .zero ∧ c ≠ .free) ∧
    s.enterRewinding h = ((s.putRecord h (r.rewinding d)).giveCommand r.station c).removeMember r.group (s.refOf h) := by
  rw [State.enterRewinding, State.withRecord_some at_h, State.enterMoving]
  cases hold : s.berthHold with
  | true => exact ⟨_, .stopBrake, .inr ⟨rfl, rfl⟩, ⟨nofun, nofun⟩, rfl⟩
  | false => exact ⟨_, .rewind, .inl ⟨rfl, rfl⟩, ⟨nofun, nofun⟩, rfl⟩

/-- What an act does to the slots. -/
theorem State.Act.slots (act : State.Act ph s t) : (∀ h, s.SlotKept t h) ∨ ∃ h r, s.ArmedAt t h r := by
  have same : t.table = s.table → ∀ h, s.SlotKept t h := fun table h =>
    .of_same (by rw [State.record?, table]; rfl) (by rw [State.generation, table]; rfl)
  cases act with
  | aside table => exact .inl (same table)
  | configured new => exact .inl (same new.table)
  | warmReset => exact .inl (State.slotKept_map (f := Record.afterWarmReset) (fun _ => rfl)
      (fun r => r.state.engaged_afterWarmReset) s.record?_warmReset s.generation_warmReset)
  | pass _ n => exact .inl (State.slotKept_map (f := Record.pass n) (fun _ => rfl) (fun _ => id) (s.record?_passTime n)
      (s.generation_passTime n))
  | rewrite at_h does => exact .inl (State.slotKept_put at_h does.line does.engaged)
  | gives at_h does => exact .inl (State.slotKept_putGive at_h does.line does.engaged _ _)
  | quiet at_h => exact .inl (State.slotKept_put at_h rfl id)
  | arms at_h prepared _ _ alone => exact .inr ⟨_, _, at_h, alone, prepared, rfl⟩
  | frees at_h => exact .inl (State.slotKept_freeSlot at_h)
  | @abandons _ h r at_h =>
    refine .inl fun h' => (s.steady_slots h').removeMember _ _ ?_
    have given : (if r.state.engaged then s.giveCommand r.station .stopBrake else s : State).record? h = some r := by
      split
      · rw [State.record?_giveCommand, at_h]
      · exact at_h
    refine State.SlotKept.trans ?_ (State.slotKept_freeSlot given h')
    split
    · exact State.SlotKept.give (.of_same rfl rfl) _ _
    · exact .of_same rfl rfl
  | faults at_h engaged cause =>
    refine .inl fun h' => ?_
    rw [State.enterFault, State.withRecord_some at_h]
    exact (s.steady_slots h').removeMember _ _
      (State.slotKept_putGive at_h (by rfl) (fun _ => engaged) _ _ h')
  | @rewinds _ h r at_h from' =>
    have engaged : r.state.engaged = true := by rcases from' with is | is <;> rw [is] <;> rfl
    obtain ⟨d, c, -, -, becomes⟩ := State.enterRewinding_shape at_h
    rw [becomes]
    exact .inl fun h' => (s.steady_slots h').removeMember _ _
      (State.slotKept_putGive at_h (by rfl) (fun _ => engaged) _ _ h')
  | entry => exact .inl (same rfl)
  | zero => exact .inl (same (State.giveCommand_table ..))
  | holds at_h => exact .inl (State.slotKept_putGive at_h (by rfl) (by exact id) _ _)
  | issues at_h => exact .inl (State.slotKept_putGive at_h (by rfl) (by exact id) _ _)
  | group => exact .inl (same rfl)
  | starts clear => exact .inl fun h => (s.steady_slots h).startStage _ _ (.of_same rfl rfl) clear
  | releases at_h engaged =>
    refine .inl fun h => ?_
    rw [State.enterReleasing, State.withRecord_some at_h]
    exact State.slotKept_putGive at_h (by rfl) (fun _ => engaged) _ _ h
  | disarms at_h armed => exact .inl (State.slotKept_put at_h rfl fun is => by cases is)

/-! ### The station rules (R9, R31) -/

theorem State.mem_recordsOn (s : State) (st : Fin 24) (h : Fin 32) :
    h ∈ s.recordsOn st ↔ ∃ r, s.record? h = some r ∧ r.station = st := by
  simp [State.recordsOn, State.mem_handlesWith]

/-- Where every record of a table comes from one of the same identity, engaged only if that was. -/
theorem State.StationsShared.of_kept (shared : s.StationsShared) (kept : ∀ h, s.SlotKept t h) : t.StationsShared := by
  have from' : ∀ h r', t.record? h = some r' → ∃ r, s.record? h = some r ∧ r'.station = r.station ∧
      r'.callTag = r.callTag ∧ (r'.state.engaged = true → r.state.engaged = true) := by
    intro h r' at_h
    cases kept h with
    | free _ now | freed _ now => rw [at_h] at now; cases now
    | kept was now _ line engaged =>
      rw [at_h] at now
      cases now
      obtain ⟨station, callTag, -, -⟩ := Record.place_of_identity line
      exact ⟨_, was, station, callTag, engaged⟩
  constructor
  · intro h h' r r' at_h at_h' station is is'
    obtain ⟨q, was, st, -, engaged⟩ := from' h r at_h
    obtain ⟨q', was', st', -, engaged'⟩ := from' h' r' at_h'
    exact shared.engaged h h' q q' was was' (st ▸ st' ▸ station) (engaged is) (engaged' is')
  · intro h h' r r' at_h at_h' station tag
    obtain ⟨q, was, st, tg, -⟩ := from' h r at_h
    obtain ⟨q', was', st', tg', -⟩ := from' h' r' at_h'
    exact shared.callTag h h' q q' was was' (st ▸ st' ▸ station) (tg ▸ tg' ▸ tag)
  · intro st
    refine Nat.le_trans (List.Subperm.length_le (List.subperm_of_subset (t.handlesWith_nodup _) fun h member => ?_))
      (shared.atMostTwo st)
    obtain ⟨r', at_h, station⟩ := (t.mem_recordsOn st h).mp member
    obtain ⟨r, was, st', -⟩ := from' h r' at_h
    exact (s.mem_recordsOn st h).mpr ⟨r, was, st'.symm.trans station⟩

/-- An ARM engages the one record of its station that becomes so. -/
theorem State.StationsShared.armed (shared : s.StationsShared) (arms : s.ArmedAt t h r) : t.StationsShared := by
  obtain ⟨at_h, alone, -, rfl⟩ := arms
  have places : ∀ h' r', (s.putRecord h { r with state := .armed, deadline := .absent }).record? h' = some r' →
      ∃ q, s.record? h' = some q ∧ r'.station = q.station ∧ r'.callTag = q.callTag ∧ (h' ≠ h → r' = q) := by
    intro h' r' at_h'
    rw [State.record?_putRecord] at at_h'
    split at at_h'
    · next here => cases at_h'; exact ⟨r, here ▸ at_h, rfl, rfl, fun other => absurd here other⟩
    · exact ⟨r', at_h', rfl, rfl, fun _ => rfl⟩
  have resting : ∀ h' r', s.record? h' = some r' → r'.station = r.station → r'.state.engaged = false :=
    (s.engagedOn_none_iff r.station).mp alone
  have self := s.record?_putRecord_self h { r with state := .armed, deadline := .absent }
  constructor
  · intro h1 h2 r1 r2 at1 at2 station is1 is2
    obtain ⟨q1, was1, st1, -, same1⟩ := places h1 r1 at1
    obtain ⟨q2, was2, st2, -, same2⟩ := places h2 r2 at2
    have on : q1.station = q2.station := st1 ▸ st2 ▸ station
    by_cases here1 : h1 = h
    · by_cases here2 : h2 = h
      · rw [here1, here2]
      · rw [here1, at_h] at was1
        cases was1
        rw [same2 here2, resting h2 q2 was2 on.symm] at is2
        cases is2
    · by_cases here2 : h2 = h
      · rw [here2, at_h] at was2
        cases was2
        rw [same1 here1, resting h1 q1 was1 on] at is1
        cases is1
      · rw [same1 here1] at is1
        rw [same2 here2] at is2
        exact shared.engaged h1 h2 q1 q2 was1 was2 on is1 is2
  · intro h1 h2 r1 r2 at1 at2 station tag
    obtain ⟨q1, was1, st1, tg1, -⟩ := places h1 r1 at1
    obtain ⟨q2, was2, st2, tg2, -⟩ := places h2 r2 at2
    exact shared.callTag h1 h2 q1 q2 was1 was2 (st1 ▸ st2 ▸ station) (tg1 ▸ tg2 ▸ tag)
  · intro st
    refine Nat.le_trans (List.Subperm.length_le (List.subperm_of_subset (State.handlesWith_nodup _ _) fun h' member => ?_))
      (shared.atMostTwo st)
    obtain ⟨r', at_h', station⟩ := (State.mem_recordsOn _ st h').mp member
    obtain ⟨q, was, st', -⟩ := places h' r' at_h'
    exact (s.mem_recordsOn st h').mpr ⟨q, was, st'.symm.trans station⟩

/-- An ASSIGN that passes keeps the station rules by its own check (R9). -/
theorem State.StationsShared.assigned (shared : s.StationsShared) (new : s.Assigned t) : t.StationsShared := by
  obtain ⟨a, place, h, free, fits, rfl⟩ := new
  obtain ⟨few, unlike⟩ := Bool.or_eq_false_iff.mp fits
  have few : (s.recordsOn place.station).length < 2 := by simpa using few
  have unlike : ∀ h' r', s.record? h' = some r' → r'.station = place.station → r'.callTag ≠ a.callTag := by
    intro h' r' at_h' on tag
    rw [List.any_eq_false] at unlike
    exact unlike h' (List.mem_finRange h') ((s.holds_iff _ _).mpr ⟨r', at_h', by simp [on, tag]⟩)
  have cases' : ∀ h' r', (s.putRecord h (a.newRecord place)).record? h' = some r' →
      h' = h ∧ r' = a.newRecord place ∨ h' ≠ h ∧ s.record? h' = some r' := by
    intro h' r' at_h'
    rw [State.record?_putRecord] at at_h'
    split at at_h'
    · next here => cases at_h'; exact .inl ⟨here, rfl⟩
    · next other => exact .inr ⟨other, at_h'⟩
  constructor
  · intro h1 h2 r1 r2 at1 at2 station is1 is2
    rcases cases' h1 r1 at1 with ⟨-, rfl⟩ | ⟨-, was1⟩
    · cases is1
    · rcases cases' h2 r2 at2 with ⟨-, rfl⟩ | ⟨-, was2⟩
      · cases is2
      · exact shared.engaged h1 h2 r1 r2 was1 was2 station is1 is2
  · intro h1 h2 r1 r2 at1 at2 station tag
    rcases cases' h1 r1 at1 with ⟨here1, rfl⟩ | ⟨-, was1⟩
    · rcases cases' h2 r2 at2 with ⟨here2, rfl⟩ | ⟨-, was2⟩
      · rw [here1, here2]
      · exact absurd tag.symm (unlike h2 r2 was2 station.symm)
    · rcases cases' h2 r2 at2 with ⟨-, rfl⟩ | ⟨-, was2⟩
      · exact absurd tag (unlike h1 r1 was1 station)
      · exact shared.callTag h1 h2 r1 r2 was1 was2 station tag
  · intro st
    by_cases here : st = place.station
    · subst here
      have subset : (s.putRecord h (a.newRecord place)).recordsOn place.station ⊆ h :: s.recordsOn place.station := by
        intro h' member
        obtain ⟨r', at_h', station⟩ := (State.mem_recordsOn _ _ h').mp member
        rcases cases' h' r' at_h' with ⟨rfl, -⟩ | ⟨-, was⟩
        · exact List.mem_cons_self ..
        · exact List.mem_cons_of_mem _ ((s.mem_recordsOn _ h').mpr ⟨r', was, station⟩)
      have length := List.Subperm.length_le (List.subperm_of_subset (State.handlesWith_nodup _ _) subset)
      rw [List.length_cons] at length
      exact Nat.le_trans length few
    · refine Nat.le_trans (List.Subperm.length_le (List.subperm_of_subset (State.handlesWith_nodup _ _)
        fun h' member => ?_)) (shared.atMostTwo st)
      obtain ⟨r', at_h', station⟩ := (State.mem_recordsOn _ st h').mp member
      rcases cases' h' r' at_h' with ⟨-, rfl⟩ | ⟨-, was⟩
      · exact absurd station.symm here
      · exact (s.mem_recordsOn st h').mpr ⟨r', was, station⟩

theorem State.StationsShared.act (shared : s.StationsShared) (act : State.Act ph s t) : t.StationsShared := by
  rcases act.slots with kept | ⟨h, r, arms⟩
  · exact shared.of_kept kept
  · exact shared.armed arms

theorem State.stationsShared_powerOnReset (s : State) : s.powerOnReset.StationsShared where
  engaged h _ _ _ at_h := by rw [s.record?_powerOnReset] at at_h; cases at_h
  callTag h _ _ _ at_h := by rw [s.record?_powerOnReset] at at_h; cases at_h
  atMostTwo st := by
    have none' : s.powerOnReset.recordsOn st = [] := by
      refine List.eq_nil_iff_forall_not_mem.mpr fun h member => ?_
      obtain ⟨r, at_h, -⟩ := (State.mem_recordsOn _ st h).mp member
      rw [s.record?_powerOnReset] at at_h
      cases at_h
    rw [none']
    exact Nat.zero_le 2

/-! ### The identity of a record (R1 to R4, R7, R17) -/

/-- What a run of acts leaves of a slot, whatever it engages. -/
def State.SlotStands (s t : State) (h : Fin 32) : Prop :=
  (∀ r, s.record? h = some r → t.record? h = none ∧ t.generation h = s.generation h + 1 ∨
    ∃ r', t.record? h = some r' ∧ t.generation h = s.generation h ∧ r'.identity = r.identity) ∧
  (s.record? h = none → t.record? h = none ∧ t.generation h = s.generation h)

theorem State.SlotStands.refl (s : State) (h : Fin 32) : s.SlotStands s h :=
  ⟨fun r at_h => .inr ⟨r, at_h, rfl, rfl⟩, fun free => ⟨free, rfl⟩⟩

theorem State.SlotStands.act (stands : s.SlotStands t h) (act : State.Act ph t u) : s.SlotStands u h := by
  obtain ⟨held, free⟩ := stands
  have goes : t.SlotStands u h := by
    rcases act.slots with kept | ⟨h', r', arms⟩
    · cases kept h with
      | free was now gen => exact ⟨fun r at_h => (by rw [was] at at_h; cases at_h), fun _ => ⟨now, gen⟩⟩
      | freed was now gen => exact ⟨fun r at_h => .inl ⟨now, gen⟩, fun free => (by rw [was] at free; cases free)⟩
      | kept was now gen line =>
        refine ⟨fun r at_h => .inr ⟨_, now, gen, ?_⟩, fun free => (by rw [was] at free; cases free)⟩
        rw [was] at at_h
        cases at_h
        exact line
    · obtain ⟨at_h', -, -, rfl⟩ := arms
      by_cases here : h = h'
      · subst here
        refine ⟨fun r at_h => .inr ⟨_, State.record?_putRecord_self .., State.generation_putRecord .., ?_⟩,
          fun free => (by rw [at_h'] at free; cases free)⟩
        rw [at_h'] at at_h
        cases at_h
        rfl
      · refine ⟨fun r at_h => .inr ⟨r, ?_, State.generation_putRecord .., rfl⟩,
          fun free => ⟨?_, State.generation_putRecord ..⟩⟩
        · rw [State.record?_putRecord_ne _ _ here, at_h]
        · rw [State.record?_putRecord_ne _ _ here, free]
  refine ⟨fun r at_h => ?_, fun none' => ?_⟩
  · rcases held r at_h with ⟨now, gen⟩ | ⟨r', now, gen, line⟩
    · obtain ⟨now', gen'⟩ := goes.2 now
      exact .inl ⟨now', gen'.trans gen⟩
    · rcases goes.1 r' now with ⟨now', gen'⟩ | ⟨r'', now', gen', line'⟩
      · exact .inl ⟨now', by rw [gen', gen]⟩
      · exact .inr ⟨r'', now', gen'.trans gen, line'.trans line⟩
  · obtain ⟨now, gen⟩ := free none'
    obtain ⟨now', gen'⟩ := goes.2 now
    exact ⟨now', gen'.trans gen⟩

end Sys2Proof.Machine

namespace Sys2Proof

open Machine

/-- Settles O57: every act keeps the station rules, ARM and ASSIGN by their own checks. -/
theorem stationsAreSharedByTheRules : Obligations.StationsAreSharedByTheRules := fun _ _ shared next =>
  step_keeps (I := State.StationsShared) State.stationsShared_powerOnReset (fun _ _ shared => shared.assigned)
    (fun _ _ _ shared => shared.act) next shared

/-- Settles O50: every act leaves a slot FREE, frees it with a higher generation or keeps the record's identity; an ASSIGN
alone fills one. -/
theorem identityIsFixedForLife : Obligations.IdentityIsFixedForLife := by
  intro c s t h next other
  rcases exec_does c next with ⟨reset, -⟩ | ⟨u, p, q, ⟨a, place, h', free, -, rfl⟩, rfl⟩ | ran
  · exact absurd reset other
  · rw [State.record?_over, State.generation_over]
    by_cases here : h = h'
    · subst here
      refine ⟨fun r at_h => (by rw [free] at at_h; cases at_h), fun _ => ⟨State.generation_putRecord .., fun r' at_h => ?_⟩⟩
      rw [State.record?_putRecord_self] at at_h
      cases at_h
      rfl
    · rw [State.record?_putRecord_ne _ _ here]
      refine ⟨fun r at_h => .inr ⟨r, at_h, State.generation_putRecord .., rfl, rfl, rfl, rfl, rfl, rfl, rfl, rfl, rfl, rfl,
        rfl, rfl⟩, fun none' => ⟨State.generation_putRecord .., fun r' at_h => ?_⟩⟩
      rw [none'] at at_h
      cases at_h
  · obtain ⟨held, free⟩ := ran.keeps (I := fun u => s.SlotStands u h) (fun _ _ _ stands => stands.act) (.refl s h)
    refine ⟨fun r at_h => (held r at_h).imp id ?_, fun none' => ⟨(free none').2, fun r' at_h => ?_⟩⟩
    · rintro ⟨r', now, gen, line⟩
      simp only [Record.identity, Prod.mk.injEq] at line
      obtain ⟨⟨station, callTag, group, role⟩, ⟨lRun, lMin, lMax⟩, ⟨q, k⟩, t', r'', stepSize⟩ := line
      exact ⟨r', now, gen, station, callTag, group, role, lRun, lMin, lMax, q, k, t', r'', stepSize⟩
    · rw [(free none').1] at at_h
      cases at_h

end Sys2Proof
end

section
/-! PROOF. The station table in step with the map, the configured flag and the line table (R31, R117, R121, R123, R132,
R135): what every act keeps of it. -/

namespace Sys2Proof.Machine

variable {s t u : State} {h : Fin 32} {r r' : Record} {ph : Phase} {e e' : StationEntry}

/-- What an act that works a station keeps of its entry. -/
structure StationEntry.Linked (e e' : StationEntry) : Prop where
  presence : e.PresenceOk → e'.PresenceOk
  zeroing : e'.zeroing = true → e.zeroing = true
  zeroWaits : (e.command = some .zero → e.zeroing = true) → e'.command = some .zero → e'.zeroing = true

theorem StationEntry.Linked.refl (e : StationEntry) : e.Linked e := ⟨id, id, fun waits zero => waits zero⟩

theorem StationEntry.Turns.linked (turns : e.Turns e') : e.Linked e' where
  presence := turns.presence
  zeroing := turns.zeroing
  zeroWaits := fun waits zero => by
    rcases turns.command with same | gone
    · exact (turns.zeroWaits zero).trans (waits (same.symm.trans zero))
    · rw [gone] at zero; cases zero

theorem StationEntry.linked_command {c : Command} (other : c ≠ .zero) : e.Linked { e with command := some c } where
  presence := fun ⟨absent, present, lost⟩ => ⟨absent, present, lost⟩
  zeroing := id
  zeroWaits := fun _ zero => absurd (Option.some.inj zero) other

/-- A change that engages no record on another station and works mapped stations alone. -/
structure State.LinkKept (s t : State) : Prop where
  config : t.config = s.config
  configured : t.configured = s.configured
  engaged : ∀ h r', t.record? h = some r' → r'.state.engaged = true →
    ∃ r, s.record? h = some r ∧ r.state.engaged = true ∧ r'.station = r.station
  entry : ∀ st, (s.entry st).Linked (t.entry st)
  works : ∀ st, t.entry st = s.entry st ∨ s.mapped st = true

theorem State.LinkKept.linkOk (kept : s.LinkKept t) (ok : s.LinkOk) : t.LinkOk where
  presence st := (kept.entry st).presence (ok.presence st)
  engaged h r' at_h is := by
    obtain ⟨r, was, engaged, station⟩ := kept.engaged h r' at_h is
    rw [kept.configured, State.mapped, kept.config, station]
    exact ok.engaged h r was engaged
  unmapped st out := by
    have out' : s.mapped st = false := by rw [State.mapped, kept.config] at out; exact out
    rcases kept.works st with same | works
    · rw [same]; exact ok.unmapped st out'
    · rw [out'] at works; cases works
  unconfigured off := by
    rw [kept.config]
    exact ok.unconfigured (kept.configured.symm.trans off)
  zeroWaits st zero := (kept.entry st).zeroWaits (ok.zeroWaits st) zero
  zeroing st is := by
    have alone := ok.zeroing st ((kept.entry st).zeroing is)
    rw [State.engagedOn_none_iff] at alone ⊢
    intro h r' at_h station
    cases busy : r'.state.engaged with
    | false => rfl
    | true =>
      obtain ⟨r, was, engaged, place⟩ := kept.engaged h r' at_h busy
      rw [alone h r was (place.symm.trans station)] at engaged
      cases engaged

/-- The engaged records of slots that are kept. -/
theorem State.engaged_of_kept (kept : ∀ h, s.SlotKept t h) (h : Fin 32) (r' : Record) (at_h : t.record? h = some r')
    (is : r'.state.engaged = true) : ∃ r, s.record? h = some r ∧ r.state.engaged = true ∧ r'.station = r.station := by
  cases kept h with
  | free _ now | freed _ now => rw [at_h] at now; cases now
  | kept was now _ line engaged =>
    rw [at_h] at now
    cases now
    exact ⟨_, was, engaged is, (Record.place_of_identity line).1⟩

theorem State.LinkKept.of_slots (kept : ∀ h, s.SlotKept t h) (stations : t.stations = s.stations)
    (config : t.config = s.config) (configured : t.configured = s.configured) : s.LinkKept t where
  config := config
  configured := configured
  engaged := State.engaged_of_kept kept
  entry st := by
    have same : t.entry st = s.entry st := by rw [State.entry, stations]; rfl
    rw [same]
    exact .refl _
  works st := .inl (by rw [State.entry, stations]; rfl)

theorem State.LinkOk.of_slots (ok : s.LinkOk) (kept : ∀ h, s.SlotKept t h) (stations : t.stations = s.stations)
    (config : t.config = s.config) (configured : t.configured = s.configured) : t.LinkOk :=
  (State.LinkKept.of_slots kept stations config configured).linkOk ok

/-- A command given for a mapped station, whatever it does not zero. -/
theorem State.LinkOk.give (ok : s.LinkOk) {st : Fin 24} (works : s.mapped st = true) {c : Command} (other : c ≠ .zero) :
    (s.giveCommand st c).LinkOk := by
  refine State.LinkKept.linkOk ⟨State.giveCommand_config .., State.giveCommand_configured .., fun h r at_h is => ?_,
    fun st' => ?_, fun st' => ?_⟩ ok
  · rw [State.record?_giveCommand] at at_h
    exact ⟨r, at_h, is, rfl⟩
  · rw [State.entry_giveCommand]
    split
    · next here => rw [here.1]; exact StationEntry.linked_command other
    · exact .refl _
  · rw [State.entry_giveCommand]
    split
    · next here => exact .inr (by rw [here.1]; exact works)
    · exact .inl rfl

/-- A record rewritten, and a command given for the station that its engagement maps. -/
theorem State.LinkOk.putGive (ok : s.LinkOk) (at_h : s.record? h = some r) (is : r.state.engaged = true)
    (line : r'.identity = r.identity) {c : Command} (other : c ≠ .zero) :
    ((s.putRecord h r').giveCommand r.station c).LinkOk := by
  have put : (s.putRecord h r').LinkOk := ok.of_slots (State.slotKept_put at_h line fun _ => is) rfl rfl rfl
  exact put.give (ok.engaged h r at_h is).2 other

theorem State.steady_linkOk : State.Steady State.LinkOk where
  group _ _ _ ok _ := ok.of_slots (fun _ => .of_same rfl rfl) rfl rfl rfl
  release s h r ok at_h is _ := by
    rw [State.enterReleasing, State.withRecord_some at_h]
    exact ok.putGive at_h is (by rfl) nofun

/-- A PRESENT station is a mapped one (R117). -/
theorem State.LinkOk.mapped_of_present (ok : s.LinkOk) {st : Fin 24} (present : (s.entry st).presence = .present) :
    s.mapped st = true := by
  cases works : s.mapped st with
  | true => rfl
  | false => rw [(ok.unmapped st works).presence] at present; cases present

theorem StationEntry.unworked_afterReset (e : StationEntry) (reply : Option Frame) (toggle : Bool)
    (is : e = { StationEntry.reset with lastReply := reply, toggle := toggle }) : e.Unworked ∧ e.PresenceOk := by
  subst is
  exact ⟨⟨rfl, rfl, rfl, rfl, rfl, rfl, rfl, rfl⟩, fun _ => rfl, nofun, nofun⟩

/-- The station table after a CONFIGURE BERTH that passes (R117, R146). -/
theorem State.Reconfigured.linkOk (new : s.Reconfigured t) (ok : s.LinkOk) : t.LinkOk := by
  have rest : ∀ h r, t.record? h = some r → r.state.engaged = false := fun h r at_h => by
    rw [State.record?, new.table] at at_h
    rcases new.rest h r at_h with is | is <;> rw [is] <;> rfl
  have removed := fun st => StationEntry.unworked_afterReset ((s.entry st).removed) _ _ rfl
  constructor
  · intro st
    rw [new.entry]
    split
    · exact (removed st).2
    · exact ok.presence st
  · intro h r at_h is
    rw [rest h r at_h] at is
    cases is
  · intro st out
    rw [new.entry, out]
    cases was : s.mapped st with
    | true => exact (removed st).1
    | false => exact ok.unmapped st was
  · intro off
    rw [new.configured] at off
    cases off
  · intro st
    rw [new.entry]
    split
    · exact nofun
    · exact ok.zeroWaits st
  · intro st _
    exact (t.engagedOn_none_iff st).mpr fun h r at_h _ => rest h r at_h

theorem State.linkOk_warmReset (ok : s.LinkOk) : s.warmReset.LinkOk := by
  have entry : ∀ st, s.warmReset.entry st = StationEntry.afterWarmReset (s.mapped st) := fun st => by
    simp [State.entry, State.warmReset]
  have kept : ∀ h, s.SlotKept s.warmReset h := State.slotKept_map (f := Record.afterWarmReset) (fun _ => rfl)
    (fun r => r.state.engaged_afterWarmReset) s.record?_warmReset s.generation_warmReset
  have config : s.warmReset.config = s.config := by simp only [State.warmReset]
  have flag : s.warmReset.configured = s.configured := by simp only [State.warmReset]
  have mapped : ∀ st, s.warmReset.mapped st = s.mapped st := fun st => by rw [State.mapped, config]; rfl
  generalize s.warmReset = t at entry kept config flag mapped
  constructor
  · intro st
    rw [entry]
    cases s.mapped st
    · exact ⟨fun _ => rfl, nofun, nofun⟩
    · exact ⟨nofun, fun _ => Nat.zero_le 2, nofun⟩
  · intro h r' at_h is
    obtain ⟨r, was, engaged, station⟩ := State.engaged_of_kept kept h r' at_h is
    rw [station, flag, mapped]
    exact ok.engaged h r was engaged
  · intro st out
    rw [entry, ← mapped, out]
    exact ⟨rfl, rfl, rfl, rfl, rfl, rfl, rfl, rfl⟩
  · intro off
    rw [config]
    exact ok.unconfigured (flag.symm.trans off)
  · intro st zero
    rw [entry] at zero
    cases zero
  · intro st is
    rw [entry] at is
    cases is

/-- An ARM engages a record on a mapped station that is not zeroing (R31). -/
theorem State.LinkOk.armed (ok : s.LinkOk) (configured : s.configured = true)
    (present : (s.entry r.station).presence = .present) (idle : (s.entry r.station).zeroing = false) :
    (s.putRecord h { r with state := .armed, deadline := .absent }).LinkOk where
  presence := ok.presence
  engaged h' r' at_h' is := by
    rw [State.record?_putRecord] at at_h'
    split at at_h'
    · cases at_h'; exact ⟨configured, ok.mapped_of_present present⟩
    · exact ok.engaged h' r' at_h' is
  unmapped := ok.unmapped
  unconfigured := ok.unconfigured
  zeroWaits := ok.zeroWaits
  zeroing st is := by
    have alone := (s.engagedOn_none_iff st).mp (ok.zeroing st is)
    refine (State.engagedOn_none_iff _ st).mpr fun h' r' at_h' on => ?_
    rw [State.record?_putRecord] at at_h'
    split at at_h'
    · cases at_h'
      have zero : (s.entry r.station).zeroing = true := by rw [show r.station = st from on]; exact is
      rw [idle] at zero
      cases zero
    · exact alone h' r' at_h' on

/-- A ZERO given to a PRESENT station without an engaged record (R132). -/
theorem State.LinkOk.zero (ok : s.LinkOk) {st : Fin 24} (present : (s.entry st).presence = .present)
    (alone : s.engagedOn st = none) :
    ((s.putEntry st { s.entry st with zeroing := true }).giveCommand st .zero).LinkOk := by
  obtain ⟨after, slot⟩ : ∃ after, after = if commandPlaced (s.entry st).command .zero then some Command.zero
      else (s.entry st).command := ⟨_, rfl⟩
  have entry : ∀ st', ((s.putEntry st { s.entry st with zeroing := true }).giveCommand st .zero).entry st' =
      if st' = st then { s.entry st with zeroing := true, command := after } else s.entry st' := by
    intro st'
    rw [State.entry_giveCommand]
    by_cases here : st' = st
    · subst here
      rw [State.entry_putEntry_self, if_pos rfl, slot]
      cases commandPlaced (s.entry st').command .zero <;> simp
    · rw [if_neg fun both => here both.1, if_neg here, State.entry_putEntry, if_neg here]
  have records : ∀ h, ((s.putEntry st { s.entry st with zeroing := true }).giveCommand st .zero).record? h = s.record? h :=
    fun h => by rw [State.record?_giveCommand, State.record?_putEntry]
  have frame := State.giveCommand_config (s.putEntry st { s.entry st with zeroing := true }) st .zero
  have flag := State.giveCommand_configured (s.putEntry st { s.entry st with zeroing := true }) st .zero
  generalize (s.putEntry st { s.entry st with zeroing := true }).giveCommand st .zero = t at entry records frame flag
  constructor
  · intro st'
    rw [entry]
    split
    · obtain ⟨a, p, l⟩ := ok.presence st
      exact ⟨a, p, l⟩
    · exact ok.presence st'
  · intro h r at_h is
    rw [records] at at_h
    rw [flag, State.mapped, frame]
    exact ok.engaged h r at_h is
  · intro st' out
    have out' : s.mapped st' = false := by rw [State.mapped, frame] at out; exact out
    rw [entry]
    split
    · next here =>
      rw [here, ok.mapped_of_present present] at out'
      cases out'
    · exact ok.unmapped st' out'
  · intro off
    rw [frame]
    exact ok.unconfigured (flag.symm.trans off)
  · intro st'
    rw [entry]
    split
    · exact fun _ => rfl
    · exact ok.zeroWaits st'
  · intro st' is
    have none' : s.engagedOn st' = none := by
      rw [entry] at is
      split at is
      · next here => rw [here]; exact alone
      · exact ok.zeroing st' is
    rw [State.engagedOn_none_iff] at none' ⊢
    intro h r at_h
    rw [records] at at_h
    exact none' h r at_h

theorem State.LinkOk.act (ok : s.LinkOk) (act : State.Act ph s t) : t.LinkOk := by
  have slots : (∃ h r, s.ArmedAt t h r) ∨ ∀ h, s.SlotKept t h := act.slots.symm
  cases act with
  | aside table stations groups config configured =>
    exact ok.of_slots (fun h => .of_same (by rw [State.record?, table]; rfl) (by rw [State.generation, table]; rfl))
      stations config configured
  | configured new => exact new.linkOk ok
  | warmReset => exact State.linkOk_warmReset ok
  | pass _ n =>
    exact ok.of_slots (State.slotKept_map (f := Record.pass n) (fun _ => rfl) (fun _ => id) (s.record?_passTime n)
      (s.generation_passTime n)) (s.passTime_stations n) (s.passTime_config n) (s.passTime_configured n)
  | rewrite at_h does => exact ok.of_slots (State.slotKept_put at_h does.line does.engaged) rfl rfl rfl
  | gives at_h does engaged other => exact ok.putGive at_h (does.engaged engaged) does.line other.1
  | quiet at_h => exact ok.of_slots (State.slotKept_put at_h rfl id) rfl rfl rfl
  | arms at_h _ configured present _ idle => exact ok.armed configured present idle
  | frees at_h => exact ok.of_slots (State.slotKept_freeSlot at_h) rfl rfl rfl
  | @abandons _ h r at_h =>
    have given : (if r.state.engaged then s.giveCommand r.station .stopBrake else s : State).LinkOk ∧
        (if r.state.engaged then s.giveCommand r.station .stopBrake else s : State).record? h = some r := by
      split
      · next is => exact ⟨ok.give (ok.engaged h r at_h is).2 nofun, by rw [State.record?_giveCommand, at_h]⟩
      · exact ⟨ok, at_h⟩
    exact State.steady_linkOk.removeMember _ _ (given.1.of_slots (State.slotKept_freeSlot given.2) rfl rfl rfl)
  | faults at_h engaged cause =>
    rw [State.enterFault, State.withRecord_some at_h]
    exact State.steady_linkOk.removeMember _ _ (ok.putGive at_h engaged (by rfl) nofun)
  | @rewinds _ h r at_h from' =>
    have engaged : r.state.engaged = true := by rcases from' with is | is <;> rw [is] <;> rfl
    obtain ⟨d, c, -, other, becomes⟩ := State.enterRewinding_shape at_h
    rw [becomes]
    exact State.steady_linkOk.removeMember _ _ (ok.putGive at_h engaged (by rfl) other.1)
  | @entry _ st e works turns =>
    have kept : s.LinkKept (s.putEntry st e) := by
      refine ⟨rfl, rfl, fun h r at_h is => ⟨r, at_h, is, rfl⟩, fun st' => ?_, fun st' => ?_⟩
      · rw [State.entry_putEntry]
        split
        · next here => subst here; exact turns.linked
        · exact .refl _
      · rw [State.entry_putEntry]
        split
        · next here => subst here; exact works.symm
        · exact .inl rfl
    exact kept.linkOk ok
  | zero present alone => exact ok.zero present alone
  | holds at_h moving _ other =>
    exact ok.putGive at_h (LineState.engaged_of_moving moving) (by rfl) other.1
  | @issues _ h r dir at_h tending =>
    refine ok.putGive at_h (by rw [tending]; rfl) (by rfl) ?_
    cases dir <;> exact nofun
  | group => exact ok.of_slots (fun _ => .of_same rfl rfl) rfl rfl rfl
  | starts clear => exact State.steady_linkOk.startStage _ _ ok clear
  | releases at_h engaged =>
    rw [State.enterReleasing, State.withRecord_some at_h]
    exact ok.putGive at_h engaged (by rfl) nofun
  | disarms at_h armed => exact ok.of_slots (State.slotKept_put at_h rfl fun is => by cases is) rfl rfl rfl

theorem State.LinkOk.assigned (ok : s.LinkOk) (new : s.Assigned t) : t.LinkOk := by
  obtain ⟨a, place, h, free, -, rfl⟩ := new
  have kept : s.LinkKept (s.putRecord h (a.newRecord place)) := by
    refine ⟨rfl, rfl, fun h' r' at_h' is => ?_, fun _ => .refl _, fun _ => .inl rfl⟩
    rw [State.record?_putRecord] at at_h'
    split at at_h'
    · cases at_h'; cases is
    · exact ⟨r', at_h', is, rfl⟩
  exact kept.linkOk ok

theorem State.linkOk_powerOnReset (s : State) : s.powerOnReset.LinkOk := by
  have entry : ∀ st, s.powerOnReset.entry st = StationEntry.reset := fun st => by
    simp [State.entry, State.powerOnReset, State.reset]
  have none' : ∀ h r, s.powerOnReset.record? h ≠ some r := fun h r at_h => by
    rw [s.record?_powerOnReset] at at_h; cases at_h
  exact ⟨fun st => (StationEntry.unworked_afterReset _ _ _ (entry st)).2, fun h r at_h => absurd at_h (none' h r),
    fun st _ => (StationEntry.unworked_afterReset _ _ _ (entry st)).1, fun _ => rfl,
    fun st zero => (by rw [entry] at zero; cases zero), fun st is => (by rw [entry] at is; cases is)⟩

end Sys2Proof.Machine

namespace Sys2Proof

open Machine

/-- Settles O58: every act works mapped stations alone and engages records by ARM's checks alone. -/
theorem stationTableStaysConsistent : Obligations.StationTableStaysConsistent := fun _ _ _ ok next =>
  step_keeps (I := State.LinkOk) State.linkOk_powerOnReset (fun _ _ ok => ok.assigned) (fun _ _ _ ok => ok.act) next ok

end Sys2Proof
end

section
/-! PROOF. The running stages' lists (R96, R101, R102): what every act keeps of them, and how a record that leaves RELEASING
leaves its list. -/

namespace Sys2Proof.Machine

variable {s t u : State} {h : Fin 32} {r r' : Record} {ph : Phase} {g : Fin 8} {stage : Stage} {ref : Ref}

/-- A reference names a RELEASING record of the group whose role belongs to the stage (R101). -/
def State.Lists (s : State) (g : Fin 8) (stage : Stage) (ref : Ref) : Prop :=
  ∃ r, s.record? ref.handle = some r ∧ s.generation ref.handle = ref.generation ∧ r.state = .releasing ∧ r.group = g ∧
    r.role.stage = stage

/-- The lists of every group but one are as `State.GroupsOk` says. -/
def State.GroupsOkElse (s : State) (g : Fin 8) : Prop := ∀ g' stage members remaining, g' ≠ g →
  s.groupEntry g' = .running stage members remaining →
    members ≠ [] ∧ members.Nodup ∧ ∀ ref ∈ members, s.Lists g' stage ref

/-- The lists are as `State.GroupsOk` says, but for one reference of one group, whose record has left RELEASING. -/
def State.GroupsOkBut (s : State) (g : Fin 8) (left : Ref) : Prop := ∀ g' stage members remaining,
  s.groupEntry g' = .running stage members remaining →
    members ≠ [] ∧ members.Nodup ∧ ∀ ref ∈ members, s.Lists g' stage ref ∨ g' = g ∧ ref = left

theorem State.GroupsOk.of_lists (ok : s.GroupsOk)
    (groups : ∀ g stage members n, t.groupEntry g = .running stage members n → ∃ n', s.groupEntry g = .running stage members n')
    (lists : ∀ g stage ref, s.Lists g stage ref → t.Lists g stage ref) : t.GroupsOk := by
  intro g stage members n is
  obtain ⟨n', was⟩ := groups g stage members n is
  obtain ⟨some', nodup, listed⟩ := ok g stage members n' was
  exact ⟨some', nodup, fun ref member => lists g stage ref (listed ref member)⟩

/-- Group entries that stand, for `State.GroupsOk.of_lists`. -/
theorem State.groups_stand (groups : t.groups = s.groups) (g : Fin 8) (stage : Stage) (members : List Ref) (n : Nat)
    (is : t.groupEntry g = .running stage members n) : ∃ n', s.groupEntry g = .running stage members n' :=
  ⟨n, by rw [State.groupEntry, groups] at is; exact is⟩

theorem State.Lists.of_table (table : t.table = s.table) (lists : s.Lists g stage ref) : t.Lists g stage ref := by
  simp only [State.Lists, State.record?, State.generation, table]
  exact lists

/-- A rewriting that leaves no record out of RELEASING. -/
theorem State.Lists.put (lists : s.Lists g stage ref) (at_h : s.record? h = some r) (line : r'.identity = r.identity)
    (releasing : r.state = .releasing → r'.state = .releasing) : (s.putRecord h r').Lists g stage ref := by
  obtain ⟨q, at_ref, gen, state, group, role⟩ := lists
  simp only [State.Lists, State.record?_putRecord, State.generation_putRecord]
  by_cases here : ref.handle = h
  · rw [here, at_h] at at_ref
    cases at_ref
    obtain ⟨-, -, group', role'⟩ := Record.place_of_identity line
    exact ⟨r', if_pos here, gen, releasing state, group'.trans group, by rw [role', role]⟩
  · exact ⟨q, (if_neg here).trans at_ref, gen, state, group, role⟩

theorem State.Lists.give (lists : s.Lists g stage ref) (st : Fin 24) (c : Command) :
    (s.giveCommand st c).Lists g stage ref := lists.of_table (State.giveCommand_table ..)

theorem State.GroupsOk.put (ok : s.GroupsOk) (at_h : s.record? h = some r) (line : r'.identity = r.identity)
    (releasing : r.state = .releasing → r'.state = .releasing) : (s.putRecord h r').GroupsOk :=
  ok.of_lists (State.groups_stand rfl) fun _ _ _ lists => lists.put at_h line releasing

theorem State.GroupsOk.give (ok : s.GroupsOk) (st : Fin 24) (c : Command) : (s.giveCommand st c).GroupsOk :=
  ok.of_lists (State.groups_stand (State.giveCommand_groups ..)) fun _ _ _ lists => lists.give st c

/-! ### Stages that start -/

theorem State.enterReleasing_lists (lists : s.Lists g stage ref) (h : Fin 32) :
    (s.enterReleasing h).Lists g stage ref := by
  rw [State.enterReleasing, State.withRecord]
  split
  · next r at_h => exact (lists.put (r' := r.releasing _) at_h rfl fun _ => rfl).give _ _
  · exact lists

theorem State.generation_enterReleasing (s : State) (h h' : Fin 32) :
    (s.enterReleasing h).generation h' = s.generation h' := by
  rw [State.enterReleasing, State.withRecord]
  split
  · rw [State.generation_giveCommand, State.generation_putRecord]
  · rfl

theorem State.groups_enterReleasing (s : State) (h : Fin 32) : (s.enterReleasing h).groups = s.groups := by
  rw [State.enterReleasing, State.withRecord]
  split
  · rw [State.giveCommand_groups, State.putRecord_groups]
  · rfl

theorem State.releases_lists (members : List (Fin 32)) (lists : s.Lists g stage ref) :
    (members.foldl State.enterReleasing s).Lists g stage ref :=
  foldl_keeps (fun u : State => u.Lists g stage ref) _ (fun _ h lists => State.enterReleasing_lists lists h) members s lists

/-- A slot holds a record of the group whose role belongs to the stage. -/
def State.Belongs (s : State) (g : Fin 8) (stage : Stage) (h : Fin 32) : Prop :=
  ∃ r, s.record? h = some r ∧ r.group = g ∧ r.role.stage = stage

theorem State.Belongs.enterReleasing (belongs : s.Belongs g stage h) (h' : Fin 32) :
    (s.enterReleasing h').Belongs g stage h := by
  obtain ⟨r, at_h, group, role⟩ := belongs
  rw [State.enterReleasing, State.withRecord]
  split
  · next r' at_h' =>
    simp only [State.Belongs, State.record?_giveCommand, State.record?_putRecord]
    by_cases here : h = h'
    · rw [here, at_h'] at at_h
      cases at_h
      exact ⟨_, if_pos here, group, role⟩
    · exact ⟨r, (if_neg here).trans at_h, group, role⟩
  · exact ⟨r, at_h, group, role⟩

/-- The records that a stage releases are those it lists (R101). -/
theorem State.releases_listed (members : List (Fin 32)) (belong : ∀ h ∈ members, s.Belongs g stage h) :
    ∀ h ∈ members, (members.foldl State.enterReleasing s).Lists g stage (s.refOf h) := by
  induction members generalizing s with
  | nil => exact fun h member => by cases member
  | cons first rest ih =>
    intro h member
    have refs : ∀ h, (s.enterReleasing first).refOf h = s.refOf h := fun h => by
      rw [State.refOf, State.refOf, State.generation_enterReleasing]
    rcases List.mem_cons.mp member with rfl | later
    · obtain ⟨r, at_h, group, role⟩ := belong h (List.mem_cons_self ..)
      refine State.releases_lists rest ?_
      rw [State.enterReleasing, State.withRecord_some at_h]
      exact ⟨r.releasing _, by rw [State.record?_giveCommand]; exact State.record?_putRecord_self ..,
        by rw [State.generation_giveCommand]; exact State.generation_putRecord .., rfl, group, role⟩
    · rw [← refs]
      exact ih (fun h' member => (belong h' (List.mem_cons_of_mem _ member)).enterReleasing first) h later

theorem State.groups_releases (members : List (Fin 32)) (s : State) :
    (members.foldl State.enterReleasing s).groups = s.groups :=
  foldl_keeps (fun u : State => u.groups = s.groups) _ (fun u h same => (u.groups_enterReleasing h).trans same) members s rfl

theorem State.refOf_injective (s : State) : Function.Injective s.refOf := fun _ _ same => congrArg Ref.handle same

theorem State.GroupsOk.else (ok : s.GroupsOk) (g : Fin 8) : s.GroupsOkElse g :=
  fun g' stage members n _ is => ok g' stage members n is

/-- An entry without a list puts its group right. -/
theorem State.GroupsOkElse.stopped (ok : s.GroupsOkElse g) {e : GroupEntry}
    (stopped : e = .idle ∨ ∃ ended, e = .waiting ended) : (s.putGroup g e).GroupsOk := by
  intro g' stage members n is
  rw [State.groupEntry_putGroup] at is
  split at is
  · rcases stopped with rfl | ⟨ended, rfl⟩ <;> cases is
  · next other => exact ok g' stage members n other is

/-- A stage that starts lists its members and no others; the other groups' lists stand (R101). -/
theorem State.GroupsOkElse.startStage (ok : s.GroupsOkElse g) (stages : List Stage) :
    (State.startStage g stages s).GroupsOk := by
  induction stages with
  | nil => exact ok.stopped (.inl rfl)
  | cons stage rest ih =>
    unfold State.startStage
    split
    · exact ih
    · next some' =>
      have belong : ∀ h ∈ s.stageMembers g stage,
          (s.putGroup g (.running stage ((s.stageMembers g stage).map s.refOf) s.config.timeouts.stage)).Belongs g stage h := by
        intro h member
        obtain ⟨r, at_h, is⟩ := (s.mem_handlesWith _ h).mp member
        simp only [Bool.and_eq_true, decide_eq_true_eq] at is
        exact ⟨r, at_h, is.1.1, is.1.2⟩
      have nodup : (s.stageMembers g stage).Nodup := s.handlesWith_nodup _
      unfold State.beginStage
      generalize s.stageMembers g stage = members at some' belong nodup ⊢
      have listed := State.releases_listed members belong
      have groups := State.groups_releases members (s.putGroup g (.running stage (members.map s.refOf) s.config.timeouts.stage))
      intro g' stage' members' n is
      rw [State.groupEntry, groups] at is
      have is : (s.putGroup g (.running stage (members.map s.refOf) s.config.timeouts.stage)).groupEntry g' =
        .running stage' members' n := is
      rw [State.groupEntry_putGroup] at is
      split at is
      · next here =>
        cases is
        subst here
        refine ⟨fun none' => some' (List.map_eq_nil_iff.mp none'), nodup.map s.refOf_injective, fun ref member => ?_⟩
        obtain ⟨h, member', rfl⟩ := List.mem_map.mp member
        exact listed h member'
      · next other =>
        obtain ⟨some'', nodup', lists⟩ := ok g' stage' members' n other is
        exact ⟨some'', nodup', fun ref member => State.releases_lists members (lists ref member)⟩

theorem State.GroupsOkElse.stageEnded (ok : s.GroupsOkElse g) (ended : Stage) : (s.stageEnded g ended).GroupsOk := by
  unfold State.stageEnded
  split
  · exact ok.stopped (.inr ⟨ended, rfl⟩)
  · exact ok.startStage _

/-! ### Records that leave RELEASING -/

/-- A record that has left RELEASING and is removed leaves every list right (R102). -/
theorem State.GroupsOkBut.removeMember (ok : s.GroupsOkBut g ref) : (s.removeMember g ref).GroupsOk := by
  have elsewhere : s.GroupsOkElse g := fun g' stage members n other is =>
    ⟨(ok g' stage members n is).1, (ok g' stage members n is).2.1,
      fun ref' member => ((ok g' stage members n is).2.2 ref' member).resolve_right fun both => other both.1⟩
  have whole : (∀ stage members n, s.groupEntry g = .running stage members n → ref ∉ members) → s.GroupsOk := by
    intro out g' stage members n is
    obtain ⟨some', nodup, listed⟩ := ok g' stage members n is
    refine ⟨some', nodup, fun ref' member => (listed ref' member).resolve_right ?_⟩
    rintro ⟨rfl, rfl⟩
    exact out stage members n is member
  unfold State.removeMember
  split
  · next stage members n is =>
    split
    · split
      · exact elsewhere.stageEnded stage
      · next left some' =>
        intro g' stage' members' n' is'
        rw [State.groupEntry_putGroup] at is'
        split at is'
        · next here =>
          subst here
          cases is'
          obtain ⟨-, nodup, listed⟩ := ok g' stage members n is
          refine ⟨some', nodup.filter _, fun ref' member => ?_⟩
          obtain ⟨member, other⟩ := List.mem_filter.mp member
          exact (listed ref' member).resolve_right fun both => absurd both.2 (by simpa using other)
        · next other => exact elsewhere g' stage' members' n' other is'
    · next out =>
      refine whole fun stage' members' n' is' => ?_
      rw [is] at is'
      cases is'
      exact out
  · next other => exact whole fun stage members n is => absurd is (other stage members n)

/-- A change of one slot spoils the list of its own group alone, and of that only its own reference. -/
theorem State.GroupsOk.leaves (ok : s.GroupsOk) (at_h : s.record? h = some r) (groups : t.groups = s.groups)
    (others : ∀ h', h' ≠ h → t.record? h' = s.record? h' ∧ t.generation h' = s.generation h') :
    t.GroupsOkBut r.group (s.refOf h) := by
  intro g stage members n is
  obtain ⟨n', was⟩ := State.groups_stand groups g stage members n is
  obtain ⟨some', nodup, listed⟩ := ok g stage members n' was
  refine ⟨some', nodup, fun ref member => ?_⟩
  obtain ⟨q, at_ref, gen, state, group, role⟩ := listed ref member
  by_cases here : ref.handle = h
  · rw [here, at_h] at at_ref
    cases at_ref
    refine .inr ⟨group.symm, ?_⟩
    rw [State.refOf, ← here, gen]
  · obtain ⟨record, generation⟩ := others ref.handle here
    exact .inl ⟨q, record.trans at_ref, generation.trans gen, state, group, role⟩

theorem State.GroupsOk.putGive_leaves (ok : s.GroupsOk) (at_h : s.record? h = some r) (r' : Record) (st : Fin 24)
    (c : Command) : ((s.putRecord h r').giveCommand st c).GroupsOkBut r.group (s.refOf h) :=
  ok.leaves at_h (State.giveCommand_groups ..) fun h' other =>
    ⟨by rw [State.record?_giveCommand, State.record?_putRecord_ne _ _ other],
      by rw [State.generation_giveCommand, State.generation_putRecord]⟩

/-! ### Acts -/

theorem GroupEntry.pass_running {e : GroupEntry} {members : List Ref} {elapsed n : Nat}
    (is : e.pass elapsed = .running stage members n) : ∃ n', e = .running stage members n' := by
  cases e with
  | running stage' members' n' => cases is; exact ⟨n', rfl⟩
  | waiting => cases is
  | idle => cases is

theorem State.GroupsOk.act (ok : s.GroupsOk) (act : State.Act ph s t) : t.GroupsOk := by
  cases act with
  | aside table _ groups =>
    exact ok.of_lists (State.groups_stand groups) fun _ _ _ lists => lists.of_table table
  | configured new =>
    exact ok.of_lists (fun g stage members n is => ⟨n, new.groupEntry g stage members n is⟩)
      fun _ _ _ lists => lists.of_table new.table
  | warmReset =>
    intro g stage members n is
    have idle : s.warmReset.groupEntry g = .idle := by simp [State.groupEntry, State.warmReset]
    rw [idle] at is
    cases is
  | pass _ n =>
    refine ok.of_lists (fun g stage members n' is => ?_) fun g stage ref lists => ?_
    · rw [State.groupEntry_passTime] at is
      exact GroupEntry.pass_running is
    · obtain ⟨r, at_h, gen, state, group, role⟩ := lists
      exact ⟨r.pass n, by rw [State.record?_passTime, at_h]; rfl, by rw [State.generation_passTime, gen], state, group,
        role⟩
  | rewrite at_h does => exact ok.put at_h does.line does.releasing
  | gives at_h does => exact (ok.put at_h does.line does.releasing).give _ _
  | quiet at_h => exact ok.put at_h rfl id
  | arms at_h prepared => exact ok.put at_h rfl fun is => by rw [prepared] at is; cases is
  | @frees _ h r at_h idle =>
    refine ok.of_lists (State.groups_stand rfl) fun g stage ref lists => ?_
    obtain ⟨q, at_ref, gen, state, group, role⟩ := lists
    have other : ref.handle ≠ h := fun here => by
      rw [here, at_h] at at_ref
      cases at_ref
      rcases idle with is | is <;> rw [is] at state <;> cases state
    exact ⟨q, by rw [State.record?_freeSlot, if_neg other, at_ref], by rw [State.generation_freeSlot, if_neg other, gen],
      state, group, role⟩
  | @abandons _ h r at_h =>
    refine (ok.leaves at_h ?_ fun h' other => ?_).removeMember
    · rw [State.freeSlot_groups]
      split
      · exact State.giveCommand_groups ..
      · rfl
    · rw [State.record?_freeSlot, if_neg other, State.generation_freeSlot, if_neg other]
      split
      · exact ⟨State.record?_giveCommand .., State.generation_giveCommand ..⟩
      · exact ⟨rfl, rfl⟩
  | faults at_h _ cause =>
    rw [State.enterFault, State.withRecord_some at_h]
    exact (ok.putGive_leaves at_h _ _ _).removeMember
  | rewinds at_h =>
    obtain ⟨d, c, -, -, becomes⟩ := State.enterRewinding_shape at_h
    rw [becomes]
    exact (ok.putGive_leaves at_h _ _ _).removeMember
  | entry => exact ok.of_lists (State.groups_stand rfl) fun _ _ _ lists => lists.of_table rfl
  | @zero _ st =>
    have put : (s.putEntry st { s.entry st with zeroing := true }).GroupsOk :=
      ok.of_lists (State.groups_stand rfl) fun _ _ _ lists => lists.of_table rfl
    exact put.give _ _
  | @holds _ h r d _ at_h =>
    have put : (s.putRecord h { r with deadline := d }).GroupsOk := ok.put at_h rfl id
    exact put.give _ _
  | @issues _ h r dir at_h =>
    have put : (s.putRecord h (r.issueStep dir (r.stepAmount dir))).GroupsOk := ok.put at_h rfl id
    exact put.give _ _
  | group stopped => exact (ok.else _).stopped stopped
  | starts => exact (ok.else _).startStage _
  | @releases _ _ h =>
    refine ok.of_lists (State.groups_stand (s.groups_enterReleasing h)) fun _ _ _ lists => ?_
    exact State.enterReleasing_lists lists h
  | disarms at_h armed => exact ok.put at_h rfl fun is => by rw [armed] at is; cases is

theorem State.GroupsOk.assigned (ok : s.GroupsOk) (new : s.Assigned t) : t.GroupsOk := by
  obtain ⟨a, place, h, free, -, rfl⟩ := new
  refine ok.of_lists (State.groups_stand rfl) fun g stage ref lists => ?_
  obtain ⟨q, at_ref, gen, state, group, role⟩ := lists
  have other : ref.handle ≠ h := fun here => by rw [here, free] at at_ref; cases at_ref
  exact ⟨q, by rw [State.record?_putRecord_ne _ _ other, at_ref], by rw [State.generation_putRecord, gen], state, group, role⟩

theorem State.groupsOk_powerOnReset (s : State) : s.powerOnReset.GroupsOk := by
  intro g stage members n is
  have idle : s.powerOnReset.groupEntry g = .idle := by simp [State.groupEntry, State.powerOnReset, State.reset]
  rw [idle] at is
  cases is

end Sys2Proof.Machine

namespace Sys2Proof

open Machine

/-- Settles O59: a stage lists what it releases, and whatever leaves RELEASING is removed from its list in the same act. -/
theorem runningStagesListReleasingMembers : Obligations.RunningStagesListReleasingMembers := fun _ _ ok next =>
  step_keeps (I := State.GroupsOk) State.groupsOk_powerOnReset (fun _ _ ok => ok.assigned) (fun _ _ _ ok => ok.act) next ok

end Sys2Proof
end

section
/-! PROOF. The deadlines under berth hold and the range of every time (R22, R27, R47, R48, R96). A change of berth hold
leaves deadlines of both kinds until the pass that takes it; every other act leaves each moving record's deadline of a kind
that it had or of the kind that berth hold asks for. -/

namespace Sys2Proof.Machine

variable {s t u : State} {h : Fin 32} {r r' : Record} {ph : Phase} {c : Instr}

/-! ### Times in range -/

/-- A deadline's remaining time, if it has one, is in range. -/
def Deadline.InRange (d : Deadline) : Prop := ∀ n, d = .running n ∨ d = .frozen n → timeOk n

theorem Deadline.inRange_absent : Deadline.absent.InRange := fun _ is => by rcases is with is | is <;> cases is

theorem Deadline.inRange_running {n : Nat} (ok : timeOk n) : (Deadline.running n).InRange := fun _ is => by
  rcases is with is | is <;> cases is; exact ok

theorem Deadline.inRange_frozen {n : Nat} (ok : timeOk n) : (Deadline.frozen n).InRange := fun _ is => by
  rcases is with is | is <;> cases is; exact ok

theorem Deadline.InRange.freeze {d : Deadline} (ok : d.InRange) : d.freeze.InRange := by
  cases d with
  | absent => exact ok
  | running n => exact inRange_frozen (ok n (.inl rfl))
  | frozen n => exact ok

theorem Deadline.InRange.thaw {d : Deadline} (ok : d.InRange) : d.thaw.InRange := by
  cases d with
  | absent => exact ok
  | running n => exact ok
  | frozen n => exact inRange_running (ok n (.inr rfl))

/-- The last unit of a time is lost only by an expiry (log 5). -/
theorem timeOk_countDown {n : Nat} (ok : timeOk n) (elapsed : Nat) : timeOk (countDown elapsed n) := by
  obtain ⟨low, high⟩ := ok
  unfold countDown
  split
  · constructor <;> omega
  · constructor <;> omega

theorem Deadline.InRange.pass {d : Deadline} (ok : d.InRange) (elapsed : Nat) : (d.pass elapsed).InRange := by
  cases d with
  | absent => exact ok
  | running n => exact inRange_running (timeOk_countDown (ok n (.inl rfl)) elapsed)
  | frozen n => exact ok

theorem Timeouts.Ok.has {times : Timeouts} (ok : times.Ok) {n : Nat} (is : times.Has n) : timeOk n := by
  rcases is with rfl | rfl | rfl | rfl | rfl
  · exact ok.pay
  · exact ok.fast
  · exact ok.haul
  · exact ok.clear
  · exact ok.stall

theorem State.TimesOk.inRange (ok : s.TimesOk) (at_h : s.record? h = some r) : r.deadline.InRange := fun n is =>
  is.elim (ok.running h r n at_h) (ok.frozen h r n at_h)

theorem State.TimesOk.of_parts (timeouts : t.config.timeouts.Ok)
    (records : ∀ h r, t.record? h = some r → r.deadline.InRange)
    (stages : ∀ g stage members n, t.groupEntry g = .running stage members n → timeOk n) : t.TimesOk :=
  ⟨timeouts, fun h r n at_h is => records h r at_h n (.inl is), fun h r n at_h is => records h r at_h n (.inr is), stages⟩

theorem State.TimesOk.put (ok : s.TimesOk) (h : Fin 32) (new : r.deadline.InRange) : (s.putRecord h r).TimesOk := by
  refine .of_parts ok.timeouts (fun h' r' at_h' => ?_) ok.stages
  rw [State.record?_putRecord] at at_h'
  split at at_h'
  · cases at_h'; exact new
  · exact ok.inRange at_h'

theorem State.TimesOk.give (ok : s.TimesOk) (st : Fin 24) (c : Command) : (s.giveCommand st c).TimesOk := by
  refine .of_parts (by rw [State.giveCommand_config]; exact ok.timeouts) (fun h r at_h => ?_) fun g stage members n is => ?_
  · rw [State.record?_giveCommand] at at_h
    exact ok.inRange at_h
  · rw [State.groupEntry_giveCommand] at is
    exact ok.stages g stage members n is

theorem State.TimesOk.free (ok : s.TimesOk) (h : Fin 32) : (s.freeSlot h).TimesOk := by
  refine .of_parts ok.timeouts (fun h' r' at_h' => ?_) ok.stages
  rw [State.record?_freeSlot] at at_h'
  split at at_h'
  · cases at_h'
  · exact ok.inRange at_h'

theorem State.TimesOk.group (ok : s.TimesOk) {g : Fin 8} {e : GroupEntry} (follows : s.Follows g e) :
    (s.putGroup g e).TimesOk := by
  refine .of_parts ok.timeouts (fun h r at_h => ok.inRange at_h) fun g' stage members n is => ?_
  rw [State.groupEntry_putGroup] at is
  split at is
  · rcases follows stage members n is with rfl | ⟨stage', members', was⟩
    · exact ok.timeouts.stage
    · exact ok.stages g stage' members' n was
  · exact ok.stages g' stage members n is

theorem State.TimesOk.release (ok : s.TimesOk) (at_h : s.record? h = some r) : (s.enterReleasing h).TimesOk := by
  rw [State.enterReleasing, State.withRecord_some at_h]
  exact (ok.put (r := r.releasing _) h (Deadline.inRange_running ok.timeouts.clear)).give _ _

theorem State.steady_timesOk : State.Steady State.TimesOk where
  group _ _ _ ok follows := ok.group follows
  release _ _ _ ok at_h _ _ := ok.release at_h

theorem State.TimesOk.sets (ok : s.TimesOk) (at_h : s.record? h = some r) (sets : s.Sets r r') : r'.deadline.InRange := by
  rcases sets with ⟨same, -⟩ | ⟨none', -⟩ | ⟨n, has, ⟨runs, -⟩ | ⟨frozen, -⟩⟩
  · rw [same]; exact ok.inRange at_h
  · rw [none']; exact Deadline.inRange_absent
  · rw [runs]; exact Deadline.inRange_running (ok.timeouts.has has)
  · rw [frozen]; exact Deadline.inRange_frozen (ok.timeouts.has has)

theorem State.TimesOk.of_table (ok : s.TimesOk) (timeouts : t.config.timeouts.Ok) (table : t.table = s.table)
    (stages : ∀ g stage members n, t.groupEntry g = .running stage members n → s.groupEntry g = .running stage members n) :
    t.TimesOk :=
  .of_parts timeouts (fun h r at_h => ok.inRange (by rw [State.record?, table] at at_h; exact at_h))
    fun g stage members n is => ok.stages g stage members n (stages g stage members n is)

theorem State.TimesOk.act (ok : s.TimesOk) (act : State.Act ph s t) : t.TimesOk := by
  cases act with
  | aside table _ groups config =>
    refine ok.of_table (by rw [config]; exact ok.timeouts) table fun g stage members n is => ?_
    rw [State.groupEntry, groups] at is
    exact is
  | configured new => exact ok.of_table new.timeouts new.table new.groupEntry
  | warmReset =>
    refine .of_parts (by simp only [State.warmReset]; exact ok.timeouts) (fun h r at_h => ?_) fun g stage members n is => ?_
    · rw [State.record?_warmReset, Option.map_eq_some_iff] at at_h
      obtain ⟨r', -, rfl⟩ := at_h
      exact Deadline.inRange_absent
    · have idle : s.warmReset.groupEntry g = .idle := by simp [State.groupEntry, State.warmReset]
      rw [idle] at is
      cases is
  | pass _ elapsed =>
    refine .of_parts (by rw [State.passTime_config]; exact ok.timeouts) (fun h r at_h => ?_) fun g stage members n is => ?_
    · rw [State.record?_passTime, Option.map_eq_some_iff] at at_h
      obtain ⟨r', was, rfl⟩ := at_h
      exact (ok.inRange was).pass elapsed
    · rw [State.groupEntry_passTime] at is
      cases was : s.groupEntry g with
      | running stage' members' n' =>
        rw [was] at is
        cases is
        exact timeOk_countDown (ok.stages g _ _ n' was) elapsed
      | waiting => rw [was] at is; cases is
      | idle => rw [was] at is; cases is
  | rewrite at_h does => exact ok.put _ (ok.sets at_h does.times)
  | gives at_h does => exact (ok.put _ (ok.sets at_h does.times)).give _ _
  | quiet at_h =>
    have inRange := ok.inRange at_h
    exact ok.put _ inRange
  | arms => exact ok.put _ Deadline.inRange_absent
  | frees => exact ok.free _
  | @abandons _ h r at_h =>
    refine State.steady_timesOk.removeMember _ _ (State.TimesOk.free ?_ h)
    split
    · exact ok.give _ _
    · exact ok
  | @faults _ h r at_h _ cause =>
    rw [State.enterFault, State.withRecord_some at_h]
    exact State.steady_timesOk.removeMember _ _ ((ok.put (r := r.faulted cause) h Deadline.inRange_absent).give _ _)
  | @rewinds _ h r at_h =>
    obtain ⟨d, c, set, -, becomes⟩ := State.enterRewinding_shape at_h
    rw [becomes]
    have inRange : d.InRange := by
      rcases set with ⟨rfl, -⟩ | ⟨rfl, -⟩
      · exact Deadline.inRange_running ok.timeouts.stall
      · exact Deadline.inRange_frozen ok.timeouts.stall
    exact State.steady_timesOk.removeMember _ _ ((ok.put (r := r.rewinding d) h inRange).give _ _)
  | entry => exact ok.of_table ok.timeouts rfl fun _ _ _ _ => id
  | @zero _ st =>
    have put : (s.putEntry st { s.entry st with zeroing := true }).TimesOk :=
      ok.of_table ok.timeouts rfl fun _ _ _ _ => id
    exact put.give _ _
  | @holds _ h r d c at_h _ time =>
    have inRange : d.InRange := by
      rcases time with rfl | rfl
      · exact (ok.inRange at_h).freeze
      · exact (ok.inRange at_h).thaw
    exact (ok.put (r := { r with deadline := d }) h inRange).give _ _
  | @issues _ h r dir at_h =>
    have inRange := ok.inRange at_h
    exact (ok.put (r := r.issueStep dir (r.stepAmount dir)) h inRange).give _ _
  | group stopped =>
    refine ok.group fun stage members n is => ?_
    rcases stopped with rfl | ⟨ended, rfl⟩ <;> cases is
  | starts clear => exact State.steady_timesOk.startStage _ _ ok clear
  | releases at_h => exact ok.release at_h
  | disarms => exact ok.put _ Deadline.inRange_absent

theorem State.TimesOk.assigned (ok : s.TimesOk) (new : s.Assigned t) : t.TimesOk := by
  obtain ⟨a, place, h, -, -, rfl⟩ := new
  exact ok.put h Deadline.inRange_absent

theorem State.timesOk_powerOnReset (s : State) : s.powerOnReset.TimesOk := by
  refine .of_parts State.timesOk_reset.timeouts (fun h r at_h => ?_) fun g stage members n is => ?_
  · rw [s.record?_powerOnReset] at at_h
    cases at_h
  · have idle : s.powerOnReset.groupEntry g = .idle := by simp [State.groupEntry, State.powerOnReset, State.reset]
    rw [idle] at is
    cases is

/-! ### Deadlines under berth hold -/

/-- The kind of deadline that a moving record has while berth hold is, or is not, in force (R27, R47). -/
def Deadline.Fits (hold : Bool) (d : Deadline) : Prop := if hold then ∃ n, d = .frozen n else ∃ n, d = .running n

theorem Deadline.Fits.pass {hold : Bool} {d : Deadline} (fits : d.Fits hold) (elapsed : Nat) : (d.pass elapsed).Fits hold := by
  cases hold
  · obtain ⟨n, rfl⟩ := fits
    exact ⟨_, rfl⟩
  · obtain ⟨n, rfl⟩ := fits
    exact ⟨_, rfl⟩

/-- Every moving record's deadline is of the kind for one berth hold or for the other. -/
def State.HoldEither (s : State) (was now : Bool) : Prop :=
  ∀ h r, s.record? h = some r → r.state.moving = true → r.deadline.Fits was ∨ r.deadline.Fits now

theorem State.holdEither_iff (s : State) : s.HoldEither s.berthHold s.berthHold ↔ s.HoldOk :=
  ⟨fun ok h r at_h moving => (ok h r at_h moving).elim id id, fun ok h r at_h moving => .inl (ok h r at_h moving)⟩

variable {was now : Bool}

theorem State.HoldEither.of_same (ok : s.HoldEither was now) (same : ∀ h, t.record? h = s.record? h) :
    t.HoldEither was now := fun h r at_h => ok h r (by rw [← same]; exact at_h)

theorem State.HoldEither.put (ok : s.HoldEither was now) (h : Fin 32)
    (new : r.state.moving = true → r.deadline.Fits was ∨ r.deadline.Fits now) : (s.putRecord h r).HoldEither was now := by
  intro h' r' at_h'
  rw [State.record?_putRecord] at at_h'
  split at at_h'
  · cases at_h'; exact new
  · exact ok h' r' at_h'

theorem State.HoldEither.give (ok : s.HoldEither was now) (st : Fin 24) (c : Command) :
    (s.giveCommand st c).HoldEither was now := ok.of_same (State.record?_giveCommand s st c)

theorem State.HoldEither.free (ok : s.HoldEither was now) (h : Fin 32) : (s.freeSlot h).HoldEither was now := by
  intro h' r' at_h'
  rw [State.record?_freeSlot] at at_h'
  split at at_h'
  · cases at_h'
  · exact ok h' r' at_h'

theorem State.HoldEither.release (ok : s.HoldEither was now) (at_h : s.record? h = some r) :
    (s.enterReleasing h).HoldEither was now := by
  rw [State.enterReleasing, State.withRecord_some at_h]
  exact (ok.put (r := r.releasing _) h nofun).give _ _

theorem State.steady_holdEither (was now : Bool) : State.Steady fun u => u.HoldEither was now where
  group _ _ _ ok _ := ok.of_same fun _ => rfl
  release _ _ _ ok at_h _ _ := ok.release at_h

theorem State.HoldEither.sets (ok : s.HoldEither was now) (at_h : s.record? h = some r) (sets : s.Sets r r')
    (hold : s.berthHold = now) (moving : r'.state.moving = true) : r'.deadline.Fits was ∨ r'.deadline.Fits now := by
  rcases sets with ⟨same, state⟩ | ⟨-, still⟩ | ⟨n, -, ⟨runs, off⟩ | ⟨frozen, on⟩⟩
  · rw [same]; exact ok h r at_h (state ▸ moving)
  · rw [still] at moving; cases moving
  · rw [← hold, runs, off moving]; exact .inr ⟨n, rfl⟩
  · rw [← hold, frozen, on]; exact .inr ⟨n, rfl⟩

/-- What every act but the taking of a change of berth hold leaves of the moving records' deadlines. -/
theorem State.HoldEither.act (ok : s.HoldEither was now) (hold : ph = .input ∨ s.berthHold = now) (other : ph ≠ .hold)
    (act : State.Act ph s t) : t.HoldEither was now := by
  cases act with
  | aside table => exact ok.of_same fun h => by rw [State.record?, table]; rfl
  | configured new => exact ok.of_same fun h => by rw [State.record?, new.table]; rfl
  | warmReset =>
    intro h r at_h moving
    rw [State.record?_warmReset, Option.map_eq_some_iff] at at_h
    obtain ⟨r', -, rfl⟩ := at_h
    have still : r'.state.afterWarmReset.moving = false := by cases r'.state <;> rfl
    exact absurd (still.symm.trans moving) Bool.false_ne_true
  | pass _ elapsed =>
    intro h r at_h moving
    rw [State.record?_passTime, Option.map_eq_some_iff] at at_h
    obtain ⟨r', at', rfl⟩ := at_h
    exact (ok h r' at' moving).imp (·.pass elapsed) (·.pass elapsed)
  | rewrite at_h does => exact ok.put _ (ok.sets at_h does.times (hold.resolve_left nofun))
  | gives at_h does => exact (ok.put _ (ok.sets at_h does.times (hold.resolve_left nofun))).give _ _
  | quiet at_h =>
    have fits := ok _ _ at_h
    exact ok.put _ fits
  | arms => exact ok.put _ nofun
  | frees => exact ok.free _
  | @abandons _ h r at_h =>
    refine (State.steady_holdEither was now).removeMember _ _ (State.HoldEither.free ?_ h)
    split
    · exact ok.give _ _
    · exact ok
  | @faults _ h r at_h _ cause =>
    rw [State.enterFault, State.withRecord_some at_h]
    exact (State.steady_holdEither was now).removeMember _ _ ((ok.put (r := r.faulted cause) h nofun).give _ _)
  | @rewinds _ h r at_h =>
    obtain ⟨d, c, set, -, becomes⟩ := State.enterRewinding_shape at_h
    rw [becomes]
    have fits : d.Fits now := by
      rw [← hold.resolve_left nofun]
      rcases set with ⟨rfl, off⟩ | ⟨rfl, on⟩
      · rw [off]; exact ⟨_, rfl⟩
      · rw [on]; exact ⟨_, rfl⟩
    exact (State.steady_holdEither was now).removeMember _ _ ((ok.put (r := r.rewinding d) h fun _ => .inr fits).give _ _)
  | entry => exact ok.of_same fun _ => rfl
  | zero => exact ok.of_same fun _ => State.record?_giveCommand ..
  | holds => exact absurd rfl other
  | @issues _ h r dir at_h =>
    have fits := ok h r at_h
    exact (ok.put (r := r.issueStep dir (r.stepAmount dir)) h fits).give _ _
  | group => exact ok.of_same fun _ => rfl
  | starts clear => exact (State.steady_holdEither was now).startStage _ _ ok clear
  | releases at_h => exact ok.release at_h
  | disarms => exact ok.put _ nofun

theorem State.HoldEither.acts (ok : s.HoldEither was now) (hold : ph = .input ∨ s.berthHold = now) (other : ph ≠ .hold)
    (acts : State.Acts ph s t) : t.HoldEither was now := by
  induction acts with
  | refl => exact ok
  | @tail v w before one ih =>
    refine ih.act ?_ other one
    by_cases input : ph = .input
    · exact .inl input
    · exact .inr ((State.berthHold_of_berth (State.Acts.berth before input)).trans (hold.resolve_left input))

theorem Deadline.fits_freeze {d : Deadline} (either : d.Fits false ∨ d.Fits true) : d.freeze.Fits true := by
  rcases either with ⟨n, rfl⟩ | ⟨n, rfl⟩ <;> exact ⟨n, rfl⟩

theorem Deadline.fits_thaw {d : Deadline} (either : d.Fits true ∨ d.Fits false) : d.thaw.Fits false := by
  rcases either with ⟨n, rfl⟩ | ⟨n, rfl⟩ <;> exact ⟨n, rfl⟩

theorem State.record?_unpauseRecord (s : State) (h h' : Fin 32) : (State.unpauseRecord h s).record? h' =
    if h' = h then (s.record? h).map (fun r => if r.state.moving then { r with deadline := r.deadline.thaw } else r)
    else s.record? h' := by
  cases at_h : s.record? h with
  | none =>
    rw [State.unpauseRecord, State.withRecord_none at_h]
    split
    · next here => rw [here, at_h]; rfl
    · rfl
  | some r =>
    rw [State.unpauseRecord, State.withRecord_some at_h, Option.map_some]
    cases moves : r.state.moving with
    | true => rw [if_pos rfl, if_pos rfl, State.record?_giveCommand, State.record?_putRecord]
    | false =>
      rw [if_neg Bool.false_ne_true, if_neg Bool.false_ne_true]
      split
      · next here => rw [here, at_h]
      · rfl

/-- The records that an end of berth hold sets running again (R48). -/
theorem State.record?_unpauseAll (s : State) (h : Fin 32) : (s.forRecords State.unpauseRecord).record? h =
    (s.record? h).map (fun r => if r.state.moving then { r with deadline := r.deadline.thaw } else r) := by
  have turn := foldl_pointwise (fun (u : State) h => u.record? h) (fun u h => State.unpauseRecord h u)
    (fun _ => Option.map fun r => if r.state.moving then { r with deadline := r.deadline.thaw } else r)
    (fun u h h' => u.record?_unpauseRecord h h') (List.finRange 32) (List.nodup_finRange 32) s h
  rwa [if_pos (List.mem_finRange h)] at turn

/-- The taking of a change of berth hold leaves every moving record's deadline of the kind that berth hold asks for. -/
theorem State.HoldTaken.fits (taken : s.HoldTaken was t) (ok : s.HoldEither was s.berthHold) :
    t.HoldEither s.berthHold s.berthHold := by
  cases taken with
  | same is =>
    rw [is] at ok ⊢
    exact ok
  | still none' => exact fun h r at_h moving => absurd ((none' h r at_h).symm.trans moving) Bool.false_ne_true
  | begins before on =>
    rw [before, on] at ok
    intro h r at_h moving
    rw [s.holdBegun_startHold.records, Option.map_eq_some_iff] at at_h
    obtain ⟨q, at_q, rfl⟩ := at_h
    cases moves : q.state.moving with
    | false => simp [moves] at moving
    | true =>
      rw [if_pos rfl, on]
      exact .inl (Deadline.fits_freeze (ok h q at_q moves))
  | ends before off =>
    rw [before, off] at ok
    intro h r at_h moving
    rw [State.record?_unpauseAll, Option.map_eq_some_iff] at at_h
    obtain ⟨q, at_q, rfl⟩ := at_h
    cases moves : q.state.moving with
    | false => simp [moves] at moving
    | true =>
      rw [if_pos rfl, off]
      exact .inl (Deadline.fits_thaw (ok h q at_q moves))

/-- A command made of acts leaves the deadlines as berth hold asks. -/
theorem State.Ran.holdOk (ran : State.Ran c s t) (ok : s.HoldOk) : t.HoldOk := by
  obtain ⟨s0, s1, s2, s3, input, early, taken, late, last⟩ := ran
  have ok0 : s0.HoldEither s.berthHold s.berthHold := (s.holdEither_iff.mpr ok).acts (.inl rfl) (by decide) input
  have mixed : s0.HoldEither s.berthHold s0.berthHold := fun h r at_h moving => .inl ((ok0 h r at_h moving).elim id id)
  have hold1 := State.berthHold_of_berth (early.berth (by decide))
  have ok1 : s1.HoldEither s.berthHold s1.berthHold := by
    rw [hold1]
    exact mixed.acts (.inr rfl) (by decide) early
  have hold2 := State.berthHold_of_berth (taken.acts.berth (by decide))
  have ok2 : s2.HoldEither s2.berthHold s2.berthHold := by
    rw [hold2]
    exact taken.fits ok1
  have hold3 := State.berthHold_of_berth (late.berth (by decide))
  have ok3 : s3.HoldEither s3.berthHold s3.berthHold := by
    rw [hold3]
    exact ok2.acts (.inr rfl) (by decide) late
  rcases last with e | ⟨e, -⟩
  · rw [e]
    exact s3.holdEither_iff.mp ok3
  · have hold := State.berthHold_of_berth (s3.setEmergency_acts.berth (by decide))
    rw [e, ← State.holdEither_iff, hold]
    exact ok3.acts (.inr rfl) (by decide) s3.setEmergency_acts

theorem exec_holdOk (ok : s.HoldOk) (next : exec c s = .next t) : t.HoldOk := by
  rcases exec_does c next with ⟨-, rfl⟩ | ⟨u, p, q, ⟨a, place, h, -, -, rfl⟩, rfl⟩ | ran
  · intro h r at_h
    rw [s.record?_powerOnReset] at at_h
    cases at_h
  · have new := (s.holdEither_iff.mpr ok).put (r := a.newRecord place) h nofun
    exact (State.holdEither_iff _).mp (new.of_same fun _ => rfl)
  · exact ran.holdOk ok

end Sys2Proof.Machine

namespace Sys2Proof

open Machine

/-- Settles O56: times by the acts alone; deadlines by the acts, and by the pass that takes a change of berth hold. -/
theorem deadlinesFollowBerthHold : Obligations.DeadlinesFollowBerthHold := by
  intro s t hold times next
  refine ⟨?_, step_keeps (I := State.TimesOk) State.timesOk_powerOnReset (fun _ _ ok => ok.assigned)
    (fun _ _ _ ok => ok.act) next times⟩
  unfold step at next
  split at next
  · have e : t = s.passTime 1 := (Host.Outcome.next.inj next).symm
    have passed := (s.holdEither_iff.mpr hold).act (ph := .early) (.inr rfl) (by decide) (.pass s 1)
    rw [e, ← State.holdEither_iff, State.berthHold_passTime]
    exact passed
  · next command rest _ =>
    have hold' : State.HoldOk { s with pending := rest } := hold
    exact exec_holdOk hold' next

end Sys2Proof
end

section
/-! PROOF. The interlocks (R99): a FREE is placed with both interlocks clear, which nothing after the inputs of a command
changes, or by the emergency release that ends it. -/

namespace Sys2Proof.Machine

variable {s t u : State} {h : Fin 32} {r r' : Record} {ph : Phase} {c : Instr} {st : Fin 24}

/-- A FREE waits for the station only if it did, or if the interlocks are clear. -/
def State.FreeStill (s : State) (st : Fin 24) (t : State) : Prop :=
  (t.entry st).command = some .free → (s.entry st).command = some .free ∨ s.interlocked = false

theorem State.FreeStill.of_same (same : t.entry st = s.entry st) : s.FreeStill st t := fun free =>
  .inl (same ▸ free)

theorem State.FreeStill.trans (first : s.FreeStill st t) (berth : t.berth = s.berth) (second : t.FreeStill st u) :
    s.FreeStill st u := fun free => (second free).elim first fun clear =>
  .inr ((State.interlocked_of_berth berth).symm.trans clear)

theorem State.freeStill_give (s : State) (st st' : Fin 24) {c : Command} (other : c ≠ .free) :
    s.FreeStill st (s.giveCommand st' c) := by
  intro free
  rw [State.entry_giveCommand] at free
  split at free
  · exact absurd (Option.some.inj free) other
  · exact .inl free

theorem State.freeStill_release (s : State) (st : Fin 24) (h : Fin 32) (clear : s.interlocked = false) :
    s.FreeStill st (s.enterReleasing h) := fun _ => .inr clear

/-- What the Release Sequencer does beside an emergency release. -/
theorem State.steady_freeStill (s : State) (st : Fin 24) : State.Steady fun u => u.berth = s.berth ∧ s.FreeStill st u where
  group _ _ _ kept _ := ⟨kept.1, kept.2.trans kept.1 (.of_same rfl)⟩
  release u h _ kept _ _ clear := ⟨(u.berth_enterReleasing h).trans kept.1, kept.2.trans kept.1 (u.freeStill_release st h clear)⟩

theorem State.freeStill_putGive (s : State) (st st' : Fin 24) (h : Fin 32) (r : Record) {c : Command} (other : c ≠ .free) :
    s.FreeStill st ((s.putRecord h r).giveCommand st' c) :=
  State.freeStill_give (s.putRecord h r) st st' other

theorem State.freeStill_leaves (s : State) (st st' : Fin 24) (h : Fin 32) (r : Record) {c : Command} (other : c ≠ .free)
    (g : Fin 8) (ref : Ref) : s.FreeStill st (((s.putRecord h r).giveCommand st' c).removeMember g ref) :=
  ((s.steady_freeStill st).removeMember g ref
    ⟨State.berth_giveCommand (s.putRecord h r) st' c, s.freeStill_putGive st st' h r other⟩).2

/-- An act after the inputs and before an emergency release places a FREE only with the interlocks clear. -/
theorem State.Act.freeStill (act : State.Act ph s t) (st : Fin 24) (between : ph ≠ .input ∧ ph ≠ .emergency) :
    s.FreeStill st t := by
  cases act with
  | aside _ stations => exact .of_same (by rw [State.entry, stations]; rfl)
  | configured | warmReset => exact absurd rfl between.1
  | pass _ n => exact .of_same (by rw [State.entry, State.passTime_stations]; rfl)
  | rewrite | quiet | arms | frees | group | disarms => exact .of_same rfl
  | gives _ _ _ other => exact s.freeStill_putGive st _ _ _ other.2
  | @abandons _ h r at_h =>
    refine ((s.steady_freeStill st).removeMember _ _ ?_).2
    split
    · exact ⟨State.berth_giveCommand .., s.freeStill_give st _ (c := .stopBrake) nofun⟩
    · exact ⟨rfl, .of_same rfl⟩
  | faults at_h =>
    rw [State.enterFault, State.withRecord_some at_h]
    exact s.freeStill_leaves st _ _ _ (c := .stopBrake) nofun _ _
  | rewinds at_h =>
    obtain ⟨d, c, -, other, becomes⟩ := State.enterRewinding_shape at_h
    rw [becomes]
    exact s.freeStill_leaves st _ _ _ other.2 _ _
  | @entry _ st' e _ turns =>
    intro free
    rw [State.entry_putEntry] at free
    split at free
    · next here =>
      rw [here]
      rcases turns.command with same | gone
      · exact .inl (same.symm.trans free)
      · rw [gone] at free; cases free
    · exact .inl free
  | @zero _ st' =>
    have put : s.FreeStill st (s.putEntry st' { s.entry st' with zeroing := true }) := by
      intro free
      rw [State.entry_putEntry] at free
      split at free
      · next here => rw [here]; exact .inl free
      · exact .inl free
    exact put.trans rfl (State.freeStill_give _ st _ (c := .zero) nofun)
  | holds _ _ _ other => exact s.freeStill_putGive st _ _ _ other.2
  | @issues _ h r dir => exact s.freeStill_putGive st _ _ _ (by cases dir <;> exact nofun)
  | starts clear => exact fun _ => .inr clear
  | releases _ _ clear => exact fun _ => .inr (clear.resolve_left between.2)

theorem State.Acts.freeStill (acts : State.Acts ph s t) (st : Fin 24) (between : ph ≠ .input ∧ ph ≠ .emergency) :
    s.FreeStill st t := by
  induction acts with
  | refl => exact .of_same rfl
  | tail before one ih => exact ih.trans (State.Acts.berth before between.1) (one.freeStill st between)

/-- No input places a FREE. -/
theorem State.Act.free_of_input (act : State.Act .input s t) (st : Fin 24) (free : (t.entry st).command = some .free) :
    (s.entry st).command = some .free := by
  cases act with
  | aside _ stations =>
    have same : t.entry st = s.entry st := by rw [State.entry, stations]; rfl
    exact same ▸ free
  | configured new =>
    rw [new.entry] at free
    split at free
    · cases free
    · exact free
  | warmReset =>
    have entry : s.warmReset.entry st = StationEntry.afterWarmReset (s.mapped st) := by simp [State.entry, State.warmReset]
    rw [entry] at free
    cases free
  | quiet | group => exact free
  | starts _ after | releases _ _ _ after => exact absurd rfl after

theorem State.Acts.free_of_input (acts : State.Acts .input s t) (st : Fin 24) (free : (t.entry st).command = some .free) :
    (s.entry st).command = some .free := by
  induction acts with
  | refl => exact free
  | tail _ one ih => exact ih (one.free_of_input st free)

/-- A command without an emergency release places no FREE under an interlock. -/
theorem State.Ran.free_or_rings (ran : State.Ran c s t) (locked : t.interlocked = true)
    (was : (s.entry st).command ≠ some .free) (free : (t.entry st).command = some .free) :
    ∃ u : State, t = u.setEmergency ∧ Rings c s := by
  obtain ⟨s0, s1, s2, s3, input, early, taken, late, last⟩ := ran
  rcases last with e | ⟨e, rings⟩
  · rw [e] at locked free
    have berth1 := early.berth (by decide)
    have berth2 := (taken.acts.berth (by decide)).trans berth1
    have berth3 := (late.berth (by decide)).trans berth2
    have still1 := early.freeStill st ⟨by decide, by decide⟩
    have still2 := still1.trans berth1 (taken.acts.freeStill st ⟨by decide, by decide⟩)
    have still3 := still2.trans berth2 (late.freeStill st ⟨by decide, by decide⟩)
    rcases still3 free with before | clear
    · exact absurd (input.free_of_input st before) was
    · rw [State.interlocked_of_berth berth3, clear] at locked
      cases locked
  · exact ⟨s3, e, rings⟩

end Sys2Proof.Machine

namespace Sys2Proof

open Machine

/-- Settles O51: the acts place a FREE with the interlocks clear; an emergency release is the last thing its command does. -/
theorem interlocksHoldBackEveryRelease : Obligations.InterlocksHoldBackEveryRelease := by
  intro c s t st next locked was free
  have locked : t.interlocked = true := t.interlocked_iff.mpr locked
  rcases exec_does c next with ⟨-, rfl⟩ | ⟨u, p, q, ⟨a, place, h, -, -, rfl⟩, rfl⟩ | ran
  · have entry : s.powerOnReset.entry st = StationEntry.reset := by simp [State.entry, State.powerOnReset, State.reset]
    rw [entry] at free
    cases free
  · exact absurd free was
  · obtain ⟨u, e, rings⟩ := ran.free_or_rings locked was free
    have released := (State.emergencyReleased_setEmergency u).rest
    rw [← e] at released
    refine ⟨by rw [released], fun g => ?_, rings⟩
    rw [released]
    simp [State.groupEntry]

end Sys2Proof
end

section
/-! PROOF. Correction steps (R63 to R65, R147): a step comes into being where it is issued, after the rest of its command's
work, and what the command does then leaves it as it was issued. -/

namespace Sys2Proof.Machine

variable {s t u : State} {h : Fin 32} {r r' : Record} {ph : Phase} {c : Instr} {x : StepInFlight}

/-! ### Steps that were there before -/

/-- Every step in flight is one that the same record had. -/
def State.StepsFrom (s t : State) : Prop := ∀ h r' x, t.record? h = some r' → r'.step = some x →
  ∃ r, s.record? h = some r ∧ r.step = some x

theorem State.StepsFrom.of_same (same : ∀ h, t.record? h = s.record? h) : s.StepsFrom t :=
  fun h r' _ at_h step => ⟨r', by rw [← same]; exact at_h, step⟩

theorem State.StepsFrom.trans (first : s.StepsFrom t) (second : t.StepsFrom u) : s.StepsFrom u := by
  intro h r' x at_h step
  obtain ⟨r, was, step⟩ := second h r' x at_h step
  exact first h r x was step

theorem State.stepsFrom_put (at_h : s.record? h = some r) (step : r'.step = none ∨ r'.step = r.step) :
    s.StepsFrom (s.putRecord h r') := by
  intro h' q x at_h' is
  rw [State.record?_putRecord] at at_h'
  split at at_h'
  · next here =>
    cases at_h'
    rcases step with none' | same
    · rw [none'] at is; cases is
    · exact ⟨r, here ▸ at_h, same.symm.trans is⟩
  · exact ⟨q, at_h', is⟩

theorem State.stepsFrom_putGive (at_h : s.record? h = some r) (step : r'.step = none ∨ r'.step = r.step) (st : Fin 24)
    (c : Command) : s.StepsFrom ((s.putRecord h r').giveCommand st c) :=
  (State.stepsFrom_put at_h step).trans (.of_same (State.record?_giveCommand _ st c))

theorem State.stepsFrom_free (s : State) (h : Fin 32) : s.StepsFrom (s.freeSlot h) := by
  intro h' q x at_h' is
  rw [State.record?_freeSlot] at at_h'
  split at at_h'
  · cases at_h'
  · exact ⟨q, at_h', is⟩

theorem State.stepsFrom_map {f : Record → Record} (records : ∀ h, t.record? h = (s.record? h).map f)
    (step : ∀ r, (f r).step = none ∨ (f r).step = r.step) : s.StepsFrom t := by
  intro h q x at_h is
  rw [records, Option.map_eq_some_iff] at at_h
  obtain ⟨r, was, rfl⟩ := at_h
  rcases step r with none' | same
  · rw [none'] at is; cases is
  · exact ⟨r, was, same.symm.trans is⟩

theorem State.stepsFrom_release (at_h : s.record? h = some r) : s.StepsFrom (s.enterReleasing h) := by
  rw [State.enterReleasing, State.withRecord_some at_h]
  exact State.stepsFrom_putGive (r' := r.releasing _) at_h (.inl rfl) _ _

theorem State.steady_stepsFrom (s : State) : State.Steady fun u => s.StepsFrom u where
  group _ _ _ from' _ := from'.trans (.of_same fun _ => rfl)
  release _ _ _ from' at_h _ _ := from'.trans (State.stepsFrom_release at_h)

/-- No act before the late ones issues a step. -/
theorem State.Act.stepsFrom (act : State.Act ph s t) (early : ph ≠ .late) : s.StepsFrom t := by
  cases act with
  | aside table => exact .of_same fun h => by rw [State.record?, table]; rfl
  | configured new => exact .of_same fun h => by rw [State.record?, new.table]; rfl
  | warmReset => exact State.stepsFrom_map (f := Record.afterWarmReset) s.record?_warmReset fun _ => .inl rfl
  | pass _ n => exact State.stepsFrom_map (f := Record.pass n) (s.record?_passTime n) fun _ => .inr rfl
  | rewrite at_h does => exact State.stepsFrom_put at_h does.step
  | gives at_h does => exact State.stepsFrom_putGive at_h does.step _ _
  | quiet at_h | arms at_h | disarms at_h => exact State.stepsFrom_put at_h (.inr rfl)
  | frees => exact s.stepsFrom_free _
  | abandons =>
    refine s.steady_stepsFrom.removeMember _ _ (State.StepsFrom.trans ?_ (State.stepsFrom_free _ _))
    split
    · exact .of_same fun _ => State.record?_giveCommand ..
    · exact .of_same fun _ => rfl
  | @faults _ h r at_h _ cause =>
    rw [State.enterFault, State.withRecord_some at_h]
    exact s.steady_stepsFrom.removeMember _ _ (State.stepsFrom_putGive (r' := r.faulted cause) at_h (.inl rfl) _ _)
  | @rewinds _ h r at_h =>
    obtain ⟨d, c, -, -, becomes⟩ := State.enterRewinding_shape at_h
    rw [becomes]
    exact s.steady_stepsFrom.removeMember _ _ (State.stepsFrom_putGive (r' := r.rewinding d) at_h (.inr rfl) _ _)
  | entry | group => exact .of_same fun _ => rfl
  | zero => exact .of_same fun _ => State.record?_giveCommand ..
  | @holds _ h r d c at_h =>
    exact State.stepsFrom_putGive (r' := { r with deadline := d }) at_h (.inr rfl) _ _
  | issues => exact absurd rfl early
  | starts clear => exact s.steady_stepsFrom.startStage _ _ (.of_same fun _ => rfl) clear
  | releases at_h => exact State.stepsFrom_release at_h

theorem State.Acts.stepsFrom (acts : State.Acts ph s t) (early : ph ≠ .late) : s.StepsFrom t := by
  induction acts with
  | refl => exact .of_same fun _ => rfl
  | tail _ one ih => exact ih.trans (one.stepsFrom early)

/-! ### Steps as they are issued -/

/-- A record has a step in flight as R63 to R65 issue it. -/
def State.Issued (s : State) (r : Record) (x : StepInFlight) : Prop :=
  s.berthHold = false ∧ s.configured = true ∧ r.state = .tending ∧ r.c = r.r ∧ 1 ≤ x.amount ∧ x.amount ≤ r.stepSize ∧
    (x.dir = .pay → r.len + x.amount ≤ r.lMax ∧ (s.entry r.station).command = some (.stepPay x.amount)) ∧
    (x.dir = .haul → r.lMin + x.amount ≤ r.len ∧ (s.entry r.station).command = some (.stepHaul x.amount))

/-- Every step in flight is one that the same record had at first, or is as it was issued. -/
def State.Fresh (s t : State) : Prop := ∀ h r' x, t.record? h = some r' → r'.step = some x →
  (∃ r, s.record? h = some r ∧ r.step = some x) ∨ t.Issued r' x

/-- A change after which each step is issued, or stood before and stands as it did. -/
theorem State.Fresh.next (fresh : s.Fresh t)
    (each : ∀ h r' x, u.record? h = some r' → r'.step = some x →
      u.Issued r' x ∨ ∃ r, t.record? h = some r ∧ r.step = some x ∧ (t.Issued r x → u.Issued r' x)) : s.Fresh u := by
  intro h r' x at_h step
  rcases each h r' x at_h step with issued | ⟨r, was, step', stands⟩
  · exact .inr issued
  · exact (fresh h r x was step').imp id stands

theorem State.Issued.of_same (issued : s.Issued r x) (berth : t.berth = s.berth) (entry : t.entry r.station = s.entry r.station) :
    t.Issued r x := by
  have configured : t.configured = s.configured := congrArg (fun b => b.2.1) berth
  rw [State.Issued, State.berthHold_of_berth berth, configured, entry]
  exact issued

theorem State.Issued.engaged (issued : s.Issued r x) : r.state.engaged = true := by
  obtain ⟨-, -, tending, -⟩ := issued
  rw [tending]
  rfl

/-- What another engaged record's change and command leave of a step: they are for another station (R31). -/
theorem State.Issued.elsewhere {h' : Fin 32} {q : Record} (issued : s.Issued r x) (shared : s.StationsShared)
    (at_h : s.record? h = some r) (at_h' : s.record? h' = some q) (engaged : q.state.engaged = true) (other : h ≠ h')
    (r' : Record) (c : Command) : ((s.putRecord h' r').giveCommand q.station c).Issued r x := by
  have apart : r.station ≠ q.station := fun on => other (shared.engaged h h' r q at_h at_h' on issued.engaged engaged)
  have put : (s.putRecord h' r').Issued r x := issued
  refine put.of_same (State.berth_giveCommand ..) ?_
  rw [State.entry_giveCommand, if_neg fun both => apart both.1]

theorem State.Fresh.release (fresh : s.Fresh t) (shared : t.StationsShared) (at_h : t.record? h = some r)
    (engaged : r.state.engaged = true) : s.Fresh (t.enterReleasing h) := by
  rw [State.enterReleasing, State.withRecord_some at_h]
  refine fresh.next fun h' r' x at_h' step => ?_
  rw [State.record?_giveCommand, State.record?_putRecord] at at_h'
  split at at_h'
  · cases at_h'; cases step
  · next other => exact .inr ⟨r', at_h', step, fun issued => issued.elsewhere shared at_h' at_h engaged other _ _⟩

theorem State.steady_fresh (s : State) : State.Steady fun u => u.StationsShared ∧ s.Fresh u where
  group u g e both _ := ⟨both.1.of_kept fun _ => .of_same rfl rfl,
    both.2.next fun h r' x at_h step => .inr ⟨r', at_h, step, id⟩⟩
  release u h r both at_h engaged clear := by
    have act : State.Act .late u (u.enterReleasing h) := .releases at_h engaged (.inr clear) (by decide)
    exact ⟨both.1.act act, both.2.release both.1 at_h engaged⟩

theorem Record.issued_issueStep (off : t.berthHold = false) (configured : t.configured = true)
    (tending : r.state = .tending) {dir : Dir} (amount : r.stepAmount dir ≠ 0)
    (command : (t.entry r.station).command = some (stepCommand dir (r.stepAmount dir))) :
    t.Issued (r.issueStep dir (r.stepAmount dir)) { dir := dir, amount := r.stepAmount dir } := by
  refine ⟨off, configured, tending, rfl, Nat.pos_of_ne_zero amount, ?_, fun pay => ?_, fun haul => ?_⟩
  · cases dir <;> exact Nat.min_le_left _ _
  · obtain rfl : dir = .pay := pay
    refine ⟨?_, command⟩
    have within : r.stepAmount .pay ≤ r.lMax - r.len := Nat.min_le_right _ _
    show r.len + r.stepAmount .pay ≤ r.lMax
    omega
  · obtain rfl : dir = .haul := haul
    refine ⟨?_, command⟩
    have within : r.stepAmount .haul ≤ r.len - r.lMin := Nat.min_le_right _ _
    show r.lMin + r.stepAmount .haul ≤ r.len
    omega

theorem State.Fresh.issue (fresh : s.Fresh t) (shared : t.StationsShared) (link : t.LinkOk) (at_h : t.record? h = some r)
    (tending : r.state = .tending) {dir : Dir} (amount : r.stepAmount dir ≠ 0) (off : t.berthHold = false)
    (open' : t.stepBlocked r.station = false) :
    s.Fresh ((t.putRecord h (r.issueStep dir (r.stepAmount dir))).giveCommand r.station
      (stepCommand dir (r.stepAmount dir))) := by
  have engaged : r.state.engaged = true := by rw [tending]; rfl
  have placed : commandPlaced (t.entry r.station).command (stepCommand dir (r.stepAmount dir)) = true := by
    have free : (t.entry r.station).command ≠ some .free ∧ (t.entry r.station).command ≠ some .stopBrake := by
      simpa [State.stepBlocked] using open'
    unfold commandPlaced
    split
    · next waits => exact absurd waits free.1
    · next waits => exact absurd waits free.2
    · rfl
  refine fresh.next fun h' r' x at_h' step => ?_
  rw [State.record?_giveCommand, State.record?_putRecord] at at_h'
  split at at_h'
  · cases at_h'
    cases step
    refine .inl (Record.issued_issueStep ?_ ?_ tending amount ?_)
    · rw [State.berthHold_giveCommand, State.berthHold_putRecord, off]
    · rw [State.giveCommand_configured, State.putRecord_configured, (link.engaged h r at_h engaged).1]
    · rw [State.entry_giveCommand, if_pos ⟨rfl, placed⟩]
  · next other => exact .inr ⟨r', at_h', step, fun issued => issued.elsewhere shared at_h' at_h engaged other _ _⟩

/-- What an act at the end of a command leaves of the steps. -/
theorem State.Fresh.act (fresh : s.Fresh t) (shared : t.StationsShared) (link : t.LinkOk) (act : State.Act ph t u)
    (last : ph = .late ∨ ph = .emergency) : s.Fresh u := by
  cases act with
  | aside table stations groups config configured inputs =>
    have berth : u.berth = t.berth := by
      have after : ph ≠ .input := by rcases last with rfl | rfl <;> decide
      exact (State.Act.aside (ph := ph) table stations groups config configured inputs).berth after
    refine fresh.next fun h r' x at_h step => .inr ⟨r', by rw [State.record?, table] at at_h; exact at_h, step, fun issued => ?_⟩
    exact issued.of_same berth (by rw [State.entry, stations]; rfl)
  | @quiet _ _ h r at_h =>
    refine fresh.next fun h' r' x at_h' step => ?_
    rw [State.record?_putRecord] at at_h'
    split at at_h'
    · next here => cases at_h'; exact .inr ⟨r, here ▸ at_h, step, id⟩
    · exact .inr ⟨r', at_h', step, id⟩
  | issues at_h tending amount off open' => exact fresh.issue shared link at_h tending amount off open'
  | group => exact fresh.next fun h r' x at_h step => .inr ⟨r', at_h, step, id⟩
  | starts clear => exact (s.steady_fresh.startStage _ _ ⟨shared, fresh⟩ clear).2
  | releases at_h engaged => exact fresh.release shared at_h engaged
  | @disarms _ h r at_h armed =>
    refine fresh.next fun h' r' x at_h' step => ?_
    rw [State.record?_putRecord] at at_h'
    split at at_h'
    · next here =>
      cases at_h'
      refine .inr ⟨r, here ▸ at_h, step, fun issued => ?_⟩
      obtain ⟨-, -, tending, -⟩ := issued
      rw [armed] at tending
      cases tending
    · exact .inr ⟨r', at_h', step, id⟩
  | _ => rcases last with no | no <;> cases no

/-- The steps at the end of a command made of acts. -/
theorem State.Ran.fresh (ran : State.Ran c s t) (shared : s.StationsShared) (link : s.LinkOk) : s.Fresh t := by
  obtain ⟨s0, s1, s2, s3, input, early, taken, late, last⟩ := ran
  have rules : ∀ {ph : Phase} {u v : State}, State.Acts ph u v → u.StationsShared ∧ u.LinkOk →
      v.StationsShared ∧ v.LinkOk := fun acts both =>
    State.Acts.keeps (I := fun u => u.StationsShared ∧ u.LinkOk) (fun _ _ both act => ⟨both.1.act act, both.2.act act⟩) acts both
  have fresh : ∀ {ph : Phase} {u v : State}, (ph = .late ∨ ph = .emergency) → State.Acts ph u v →
      (u.StationsShared ∧ u.LinkOk) ∧ s.Fresh u → s.Fresh v := fun last acts all =>
    (State.Acts.keeps (I := fun u => (u.StationsShared ∧ u.LinkOk) ∧ s.Fresh u) (fun _ _ all act =>
      ⟨⟨all.1.1.act act, all.1.2.act act⟩, all.2.act all.1.1 all.1.2 act last⟩) acts all).2
  have rules2 := rules taken.acts (rules early (rules input ⟨shared, link⟩))
  have from2 : s.StepsFrom s2 := ((input.stepsFrom (by decide)).trans (early.stepsFrom (by decide))).trans
    (taken.acts.stepsFrom (by decide))
  have fresh3 : s.Fresh s3 := fresh (.inl rfl) late ⟨rules2, fun h r' x at_h step => .inl (from2 h r' x at_h step)⟩
  rcases last with e | ⟨e, -⟩
  · rw [e]
    exact fresh3
  · rw [e]
    exact fresh (.inr rfl) s3.setEmergency_acts ⟨rules late rules2, fresh3⟩

end Sys2Proof.Machine

namespace Sys2Proof

open Machine

/-- Settles O52: a step is issued by one act, with the checks of R63, and the acts after it leave it as issued. -/
theorem stepsAreIssuedOnlyWithinLimits : Obligations.StepsAreIssuedOnlyWithinLimits := by
  intro c s t h r r' x shared link next at_h at_h' step new
  have old : ¬ ∃ q, s.record? h = some q ∧ q.step = some x := by
    rintro ⟨q, was, step'⟩
    rw [at_h] at was
    cases was
    exact new step'
  rcases exec_does c next with ⟨-, rfl⟩ | ⟨u, p, q, ⟨a, place, h', free, -, rfl⟩, rfl⟩ | ran
  · rw [s.record?_powerOnReset] at at_h'
    cases at_h'
  · have other : h ≠ h' := fun here => by rw [here, free] at at_h; cases at_h
    rw [State.record?_over, State.record?_putRecord_ne _ _ other] at at_h'
    exact absurd ⟨r', at_h', step⟩ old
  · exact (ran.fresh shared link h r' x at_h' step).resolve_left old

end Sys2Proof
end

section
/-! PROOF. A WAITING group at an end of berth hold (R104, R112): its stage starts before or after the deferred trips, and
nothing else that the end of hold does touches the group. -/

namespace Sys2Proof.Machine

variable {s t u : State} {g : Fin 8} {h : Fin 32} {r r' : Record} {stages : List Stage} {ended : Stage}

/-! ### What leaves a group as it stands -/

/-- A record as far as the stages of its group see it: place, role, state and totals; a RELEASING one whole. -/
structure Record.StandsAs (r r' : Record) : Prop where
  station : r'.station = r.station
  role : r'.role = r.role
  state : r'.state = r.state
  stepsPaid : r'.stepsPaid = r.stepsPaid
  stepsHauled : r'.stepsHauled = r.stepsHauled
  released : r.state = .releasing → r' = r

theorem Record.StandsAs.refl (r : Record) : r.StandsAs r := ⟨rfl, rfl, rfl, rfl, rfl, fun _ => rfl⟩

theorem Record.StandsAs.trans {r'' : Record} (first : r.StandsAs r') (second : r'.StandsAs r'') : r.StandsAs r'' where
  station := second.station.trans first.station
  role := second.role.trans first.role
  state := second.state.trans first.state
  stepsPaid := second.stepsPaid.trans first.stepsPaid
  stepsHauled := second.stepsHauled.trans first.stepsHauled
  released is := (second.released (first.state.trans is)).trans (first.released is)

/-- Between two states a group's entry and its records stand, and no FREE that waits is lost. -/
structure State.Abides (s t : State) (g : Fin 8) : Prop where
  berth : t.berth = s.berth
  entry : t.groupEntry g = s.groupEntry g
  generations : ∀ h, t.generation h = s.generation h
  records : ∀ h, ∃ f : Record → Record, t.record? h = (s.record? h).map f ∧
    ∀ r, s.record? h = some r → (f r).group = r.group ∧ (r.group = g → r.StandsAs (f r))
  free : ∀ st, (s.entry st).command = some .free → (t.entry st).command = some .free

theorem State.Abides.trans (first : s.Abides t g) (second : t.Abides u g) : s.Abides u g where
  berth := second.berth.trans first.berth
  entry := second.entry.trans first.entry
  generations h := (second.generations h).trans (first.generations h)
  records h := by
    obtain ⟨f, records, stand⟩ := first.records h
    obtain ⟨f', records', stand'⟩ := second.records h
    refine ⟨f' ∘ f, by rw [records', records, Option.map_map], fun r at_h => ?_⟩
    obtain ⟨group, stands⟩ := stand r at_h
    obtain ⟨group', stands'⟩ := stand' (f r) (by rw [records, at_h]; rfl)
    exact ⟨group'.trans group, fun member => (stands member).trans (stands' (group.trans member))⟩
  free st waits := second.free st (first.free st waits)

/-- A slot that is left alone stands, for `State.Abides`. -/
theorem State.record_stands (same : t.record? h = s.record? h) (g : Fin 8) : ∃ f : Record → Record,
    t.record? h = (s.record? h).map f ∧
      ∀ r, s.record? h = some r → (f r).group = r.group ∧ (r.group = g → r.StandsAs (f r)) :=
  ⟨id, by rw [same, Option.map_id]; rfl, fun r _ => ⟨rfl, fun _ => .refl r⟩⟩

theorem State.abides_refl (s : State) (g : Fin 8) : s.Abides s g :=
  ⟨rfl, rfl, fun _ => rfl, fun _ => State.record_stands rfl g, fun _ waits => waits⟩

/-- Over a waiting FREE nothing but a FREE is placed (R94). -/
theorem StationEntry.given_free {e : StationEntry} (waits : e.command = some .free) (c : Command) :
    (e.given c).command = some .free := by
  rw [StationEntry.given, waits]
  cases c <;> first | exact waits | rfl

/-- A FREE is placed over every waiting command (R94). -/
theorem StationEntry.given_of_free (e : StationEntry) : (e.given .free).command = some .free := by
  rw [StationEntry.given]
  rcases e.command with _ | c
  · rfl
  · cases c <;> rfl

/-- One record's turn in a pass: the record is rewritten and a command may be given for its station. -/
theorem State.abides_putGiving (at_h : s.record? h = some r) (group : r'.group = r.group) (stands : r.StandsAs r')
    (c : Option Command) : s.Abides ((s.putRecord h r').giving r.station c) g := by
  have put : s.Abides (s.putRecord h r') g := by
    refine ⟨rfl, rfl, fun h' => State.generation_putRecord .., fun h' => ?_, fun _ waits => waits⟩
    rw [State.record?_putRecord]
    by_cases here : h' = h
    · subst here
      refine ⟨fun _ => r', by rw [if_pos rfl, at_h]; rfl, fun q at_q => ?_⟩
      obtain rfl := Option.some.inj (at_h.symm.trans at_q)
      exact ⟨group, fun _ => stands⟩
    · rw [if_neg here]
      exact State.record_stands rfl g
  cases c with
  | none => exact put
  | some c =>
    refine put.trans ⟨State.berth_giveCommand .., by simp only [State.giving, State.groupEntry, State.giveCommand_groups],
      fun h' => State.generation_giveCommand .., fun h' => State.record_stands (State.record?_giveCommand ..) g,
      fun st waits => ?_⟩
    rw [State.giving, State.entry_giveCommand_given]
    split
    · next here => subst here; exact StationEntry.given_free waits c
    · exact waits

theorem State.abides_forRecords {act : Fin 32 → State → State} (acts : ∀ h u, State.Abides u (act h u) g) :
    s.Abides (s.forRecords act) g :=
  State.forRecords_keeps (fun u => s.Abides u g) act (fun h u abides => abides.trans (acts h u)) s (s.abides_refl g)

/-- A paused record that runs on (R48). -/
theorem State.abides_unpauseRecord (h : Fin 32) (s : State) : s.Abides (State.unpauseRecord h s) g := by
  cases at_h : s.record? h with
  | none => rw [State.unpauseRecord, State.withRecord_none at_h]; exact s.abides_refl g
  | some r =>
    rw [State.unpauseRecord_eq at_h]
    cases moves : r.state.moving with
    | false => exact State.abides_putGiving at_h rfl (.refl r) _
    | true =>
      exact State.abides_putGiving (r' := { r with deadline := r.deadline.thaw }) at_h rfl
        ⟨rfl, rfl, rfl, rfl, rfl, fun is => by rw [is] at moves; cases moves⟩ (some r.moveCommand)

theorem Record.afterTrip_stands (r : Record) (hold blocked : Bool) : (r.afterTrip hold blocked).group = r.group ∧
    (r.afterTrip hold blocked).station = r.station ∧ (r.afterTrip hold blocked).role = r.role ∧
    (r.afterTrip hold blocked).state = r.state ∧ (r.afterTrip hold blocked).stepsPaid = r.stepsPaid ∧
    (r.afterTrip hold blocked).stepsHauled = r.stepsHauled := by
  unfold Record.afterTrip
  repeat' split
  all_goals exact ⟨rfl, rfl, rfl, rfl, rfl, rfl⟩

/-- A deferred trip that is taken (R71). -/
theorem State.abides_takeDeferredTrip (h : Fin 32) (s : State) : s.Abides (State.takeDeferredTrip h s) g := by
  cases at_h : s.record? h with
  | none => rw [State.takeDeferredTrip, State.holds, at_h]; exact s.abides_refl g
  | some r =>
    rw [State.takeDeferredTrip_eq at_h]
    cases trips : r.tripsAtHoldEnd with
    | false => exact State.abides_putGiving at_h rfl (.refl r) _
    | true =>
      obtain ⟨group, station, role, state, paid, hauled⟩ :=
        Record.afterTrip_stands { r with tripDeferred := false } false (s.stepBlocked r.station)
      exact State.abides_putGiving at_h group ⟨station, role, state, paid, hauled, fun is => by
        rw [Record.moving_of_trips trips] at is; cases is⟩ _

theorem State.StagesRun.berth {runs : Fin 8 → Option (List Stage)} (run : s.StagesRun t runs) : t.berth = s.berth := by
  rw [run.rest.rest]; rfl

/-- Stages that start in other groups. -/
theorem State.StagesRun.abides {runs : Fin 8 → Option (List Stage)} (run : s.StagesRun t runs) (still : runs g = none) :
    s.Abides t g where
  berth := run.berth
  entry := by rw [run.groups, still]
  generations h := run.rest.generations h
  records h := by
    refine ⟨_, run.rest.records h, fun r _ => ⟨?_, fun member => ?_⟩⟩
    · split <;> rfl
    · have none' : s.starts runs r.group = none := by rw [member, State.starts, still]; rfl
      rw [Record.joinsAny_none none', if_neg Bool.false_ne_true]
      exact .refl r
  free st waits := by
    rw [run.rest.commands.entries]
    split
    · exact StationEntry.given_free waits _
    · exact waits

/-! ### A group whose stage starts -/

/-- A member of a started stage has been let go, its totals as they were (R97). -/
structure State.MemberGone (s t : State) (g : Fin 8) (h : Fin 32) (r r' : Record) : Prop where
  was : s.record? h = some r
  now : t.record? h = some r'
  group : r'.group = g
  state : r'.state = .releasing
  deadline : r'.deadline = .running s.config.timeouts.clear
  step : r'.step = none
  stepsPaid : r'.stepsPaid = r.stepsPaid
  stepsHauled : r'.stepsHauled = r.stepsHauled
  free : (t.entry r.station).command = some .free

/-- Between two states a group has come to the first of its stages with members, and those have been let go (R101). -/
structure State.StageCame (s t : State) (g : Fin 8) (stages : List Stage) : Prop where
  entry : t.groupEntry g = s.entryFor g stages
  gone : ∀ stage, s.firstStage g stages = some stage → ∀ h ∈ s.stageMembers g stage, ∃ r r', s.MemberGone t g h r r'

theorem State.StagesRun.stageCame {runs : Fin 8 → Option (List Stage)} (run : s.StagesRun t runs)
    (comes : runs g = some stages) : s.StageCame t g stages := by
  refine ⟨by rw [run.groups, comes], fun stage first h member => ?_⟩
  obtain ⟨r, at_h, joins⟩ := (s.mem_handlesWith _ h).mp member
  have joins : r.joins g stage = true := joins
  obtain rfl : r.group = g := by
    by_contra other
    rw [Record.joins_other other] at joins; cases joins
  have starts : s.starts runs r.group = some stage := by rw [State.starts, comes, Option.bind_some, first]
  have goes : r.joinsAny (s.starts runs) = true := by rw [Record.joinsAny_some starts, joins]
  have records : t.record? h = (s.record? h).map _ := run.rest.records h
  refine ⟨r, r.releasing s.config.timeouts.clear, at_h, ?_, rfl, rfl, rfl, rfl, rfl, rfl, ?_⟩
  · rw [records, at_h, Option.map_some, if_pos goes]
  · have any : s.anyOn r.station (·.joinsAny (s.starts runs)) = true := by
      rw [State.anyOn, List.any_eq_true]
      exact ⟨h, List.mem_finRange h, by rw [State.holds, at_h]; simp [goes]⟩
    have entry := run.rest.commands.entries r.station
    have any' : State.anyOn { s with groups := t.groups } r.station (·.joinsAny (s.starts runs)) = true := any
    simp only [any, if_true] at entry
    rw [entry]
    exact StationEntry.given_of_free _

theorem State.Abides.config (abides : s.Abides t g) : t.config = s.config := congrArg Prod.fst abides.berth

theorem State.Abides.stageMembers (abides : s.Abides t g) (stage : Stage) : t.stageMembers g stage = s.stageMembers g stage := by
  rw [State.stageMembers_eq, State.stageMembers_eq, State.handlesWith, State.handlesWith]
  refine congrArg (fun test => (List.finRange 32).filter test) (funext fun h => ?_)
  obtain ⟨f, records, stand⟩ := abides.records h
  rw [State.holds, State.holds, records]
  cases at_h : s.record? h with
  | none => rfl
  | some r =>
    obtain ⟨group, stands⟩ := stand r at_h
    rw [Option.map_some, Option.any_some, Option.any_some]
    by_cases member : r.group = g
    · rw [Record.joins, Record.joins, group, (stands member).role, (stands member).state]
    · rw [Record.joins_other member, Record.joins_other (by rw [group]; exact member)]

theorem State.Abides.firstStage (abides : s.Abides t g) (stages : List Stage) :
    t.firstStage g stages = s.firstStage g stages := by
  rw [State.firstStage, State.firstStage]
  exact congrArg (fun test => stages.find? test) (funext fun stage => by rw [abides.stageMembers])

theorem State.Abides.entryFor (abides : s.Abides t g) (stages : List Stage) : t.entryFor g stages = s.entryFor g stages := by
  have refs : t.refOf = s.refOf := funext fun h => by rw [State.refOf, State.refOf, abides.generations]
  rw [State.entryFor, State.entryFor, abides.firstStage, refs, abides.config]
  cases s.firstStage g stages with
  | none => rfl
  | some stage => dsimp only; rw [abides.stageMembers]

/-- What stood before the stage came. -/
theorem State.Abides.stageCame (abides : s.Abides t g) (came : t.StageCame u g stages) : s.StageCame u g stages := by
  refine ⟨came.entry.trans (abides.entryFor stages), fun stage first h member => ?_⟩
  obtain ⟨r, r', gone⟩ := came.gone stage ((abides.firstStage stages).trans first) h
    (by rw [abides.stageMembers]; exact member)
  obtain ⟨q, at_h, joins⟩ := (s.mem_handlesWith _ h).mp member
  have member' : q.group = g := by
    simp only [Bool.and_eq_true, decide_eq_true_eq] at joins
    exact joins.1.1
  obtain ⟨f, records, stand⟩ := abides.records h
  have stands := (stand q at_h).2 member'
  obtain rfl : f q = r := by
    have now := gone.was
    rw [records, at_h] at now
    exact Option.some.inj now
  exact ⟨q, r', { gone with
    was := at_h
    deadline := by rw [gone.deadline, abides.config]
    stepsPaid := gone.stepsPaid.trans stands.stepsPaid
    stepsHauled := gone.stepsHauled.trans stands.stepsHauled
    free := by rw [← stands.station]; exact gone.free }⟩

/-- What stands after the stage has come. -/
theorem State.StageCame.abides (came : s.StageCame t g stages) (abides : t.Abides u g) : s.StageCame u g stages := by
  refine ⟨abides.entry.trans came.entry, fun stage first h member => ?_⟩
  obtain ⟨r, r', gone⟩ := came.gone stage first h member
  obtain ⟨f, records, stand⟩ := abides.records h
  have same := ((stand r' gone.now).2 gone.group).released gone.state
  exact ⟨r, r', { gone with
    now := by rw [records, gone.now, Option.map_some, same]
    free := abides.free _ gone.free }⟩

/-! ### The end of berth hold -/

/-- A group that has come to a stage, or to none, waits no more. -/
theorem State.waitingRuns_of_came (came : s.StageCame t g stages) : t.waitingRuns g = none := by
  rw [State.waitingRuns, came.entry, State.entryFor]
  cases s.firstStage g stages <;> rfl

theorem State.waitingRuns_waiting (waits : s.groupEntry g = .waiting ended) : s.waitingRuns g = some ended.later := by
  rw [State.waitingRuns, waits]

/-- Before any stage starts, an end of hold runs the paused records on and leaves every group as it stands. -/
theorem State.abides_unpaused (s : State) (g : Fin 8) :
    s.Abides (State.forRecords { s with holdEnds := s.holdEnds + 1 } State.unpauseRecord) g := by
  have counted : s.Abides { s with holdEnds := s.holdEnds + 1 } g :=
    ⟨rfl, rfl, fun _ => rfl, fun _ => State.record_stands rfl g, fun _ waits => waits⟩
  exact counted.trans (State.abides_forRecords State.abides_unpauseRecord)

/-- An interlock holds every WAITING group back through an end of hold (R104). -/
theorem State.abides_endHold (locked : s.interlocked = true) : s.Abides s.endHold g := by
  have unpaused := s.abides_unpaused g
  unfold State.endHold
  dsimp only
  generalize State.forRecords { s with holdEnds := s.holdEnds + 1 } State.unpauseRecord = a at unpaused ⊢
  have first : a.firstRuns s.holdEnds g = none := by
    rw [State.firstRuns, State.interlocked_of_berth unpaused.berth, locked, Bool.not_true, Bool.and_false,
      if_neg Bool.false_ne_true]
  have trips := (unpaused.trans ((a.forGroups_startWaitingFirst_run s.holdEnds).abides first)).trans
    (State.abides_forRecords State.abides_takeDeferredTrip)
  rw [State.forGroups_startWaiting_interlocked ((State.interlocked_of_berth trips.berth).trans locked)]
  exact trips

/-- Without an interlock a WAITING group comes to its next stage, in either order of R112: before the deferred trips, which
then leave it as it stands, or after them. -/
theorem State.stageCame_endHold (clear : s.interlocked = false) (waits : s.groupEntry g = .waiting ended) :
    s.StageCame s.endHold g ended.later := by
  have unpaused := s.abides_unpaused g
  unfold State.endHold
  dsimp only
  generalize State.forRecords { s with holdEnds := s.holdEnds + 1 } State.unpauseRecord = a at unpaused ⊢
  have clearA := (State.interlocked_of_berth unpaused.berth).trans clear
  have waitsA := State.waitingRuns_waiting (unpaused.entry.trans waits)
  have run := a.forGroups_startWaitingFirst_run s.holdEnds
  have berth := run.berth
  generalize a.forGroups (State.startWaitingFirst s.holdEnds) = b at run berth ⊢
  have trips : b.Abides (b.forRecords State.takeDeferredTrip) g := State.abides_forRecords State.abides_takeDeferredTrip
  generalize b.forRecords State.takeDeferredTrip = c at trips ⊢
  have last := State.forGroups_startWaiting_run (s := c)
    ((State.interlocked_of_berth (trips.berth.trans berth)).trans clearA)
  cases order : Config.stageStartsFirst s.holdEnds g with
  | true =>
    have comes : a.firstRuns s.holdEnds g = some ended.later := by rw [State.firstRuns, order, clearA]; exact waitsA
    have came := (unpaused.stageCame (run.stageCame comes)).abides trips
    exact came.abides (last.abides (State.waitingRuns_of_came came))
  | false =>
    have still : a.firstRuns s.holdEnds g = none := by rw [State.firstRuns, order]; rfl
    have stood := (unpaused.trans (run.abides still)).trans trips
    exact stood.stageCame (last.stageCame (State.waitingRuns_waiting (stood.entry.trans waits)))

/-! ### The commands that end berth hold -/

theorem exec_resumeAll_ends (idle : s.port.executing = none) (on : s.softwareHold = true)
    (clear : s.condition .hold = false) :
    exec .resumeAll s = .next (State.endHold { s with softwareHold := false, port := { s.port with posted := none } }) ∧
    State.berthHold { s with softwareHold := false, port := { s.port with posted := none } } = false := by
  have was : s.berthHold = true := by rw [State.berthHold, on, Bool.or_true]
  have now : State.berthHold { s with softwareHold := false, port := { s.port with posted := none } } = false :=
    (Bool.or_false _).trans clear
  refine ⟨?_, now⟩
  rw [show Instr.resumeAll = UrgentCode.instr .resumeAll from rfl, exec_urgent, State.postUrgent_idle idle]
  exact congrArg Host.Outcome.next (State.takeHoldChange_ends _ was now)

theorem exec_lineQualified_ends {l : Fin 8} (input : (s.lineConfig l).function ≠ .generalOut)
    (counted : (s.line l).qualifying = true)
    (same : t = s.putLine l { s.line l with qualified := some (s.line l).pin, qualifying := false })
    (was : s.conditions.berthHold = true) (now : t.conditions = { s.conditions with berthHold := false }) :
    exec (.lineQualified l) s = .next t.endHold := by
  have taken : exec (.lineQualified l) s = .next (t.takeConditionChanges s.conditions) := by
    rw [exec_lineQualified, State.qualify_input input counted, same]
    rfl
  have hold : t.berthHold = false := congrArg Conditions.berthHold now
  have contact := congrArg Conditions.contact now
  have ramp := congrArg Conditions.ramp now
  have emergency := congrArg Conditions.emergency now
  dsimp only at contact ramp emergency
  rw [taken, State.takeConditionChanges_eq, State.takeContact_same contact, State.takeHoldChange_ends _ was hold,
    State.takeRamp_same ramp, State.takeEmergency_same emergency]

end Sys2Proof.Machine

namespace Sys2Proof

open Machine

/-- Settles O11: the end of hold that either command makes, and what it does with a WAITING group. -/
theorem waitingStageStartsWhenHoldEnds : Obligations.WaitingStageStartsWhenHoldEnds := by
  intro s c g ended ends waits
  obtain ⟨a, next, off, ramp, table, groups, config⟩ : ∃ a : State, exec c s = .next a.endHold ∧ a.berthHold = false ∧
      a.condition .ramp = s.condition .ramp ∧ a.table = s.table ∧ a.groups = s.groups ∧ a.config = s.config := by
    rcases ends with ⟨rfl, idle, on, clear⟩ | ⟨l, s', rfl, input, counted, same, was, now⟩
    · obtain ⟨next, hold⟩ := exec_resumeAll_ends idle on clear
      exact ⟨_, next, hold, rfl, rfl, rfl, rfl⟩
    · have tables : s'.table = s.table ∧ s'.groups = s.groups ∧ s'.config = s.config := by rw [same]; exact ⟨rfl, rfl, rfl⟩
      exact ⟨s', exec_lineQualified_ends input counted same was now, congrArg Conditions.berthHold now,
        congrArg Conditions.ramp now, tables⟩
  have record : ∀ h, a.record? h = s.record? h := fun h => by rw [State.record?, State.record?, table]
  have members : ∀ stage, a.stageMembers g stage = s.stageMembers g stage := fun stage => by
    simp only [State.stageMembers, State.handlesWith, State.holds, record]
  have first : ∀ stages, a.firstStage g stages = s.firstStage g stages := fun stages => by
    simp only [State.firstStage, members]
  have refs : a.refOf = s.refOf := funext fun h => by rw [State.refOf, State.refOf, State.generation, State.generation, table]
  have waitsA : a.groupEntry g = .waiting ended := by rw [State.groupEntry, groups]; exact waits
  refine ⟨_, next, fun up => ?_, fun down => ?_⟩
  · have locked : a.interlocked = true := by rw [State.interlocked, ramp, up, Bool.true_or]
    exact (State.abides_endHold locked).entry.trans waitsA
  · have clear : a.interlocked = false := by rw [State.interlocked, ramp, down, off]; rfl
    have came := State.stageCame_endHold clear waitsA
    have entry := came.entry
    rw [State.entryFor, first, refs, config] at entry
    refine ⟨fun none' => by rw [entry, none'], fun stage found =>
      ⟨by rw [entry, found]; dsimp only; rw [members], fun h member => ?_⟩⟩
    obtain ⟨r, r', gone⟩ := came.gone stage ((first _).trans found) h (by rw [members]; exact member)
    exact ⟨r, r', (record h).symm.trans gone.was, gone.now, gone.state, by rw [gone.deadline, config], gone.step,
      gone.stepsPaid, gone.stepsHauled, gone.free⟩

end Sys2Proof
end
